-- ==== Sys2Proof/Word.lean ====
section
/-! DEFINITION. The words of the block: the byte, the 11-bit command word, the one-bit acknowledge and the level of a
line (spec/00_scope.md R10, R11; spec/30_encoding.md R80). -/

namespace Sys2Proof

/-- An unsigned 8-bit value (R9, R171). -/
abbrev Byte := BitVec 8

/-- A command word, format `CMD11` (R80). -/
abbrev CmdWord := BitVec 11

/-- A single bit, such as the acknowledge bit (R180). -/
abbrev Bit := BitVec 1

/-- A level of a bus line (R10). Driving `high` on an open-drain line means releasing it. -/
inductive Level where
  | low
  | high
deriving DecidableEq, Repr, Inhabited

end Sys2Proof
end

