-- ==== Sys2Proof/Syntax.lean ====
section
/-! DEFINITION. The eight commands (spec/30_encoding.md R81), and a command as it is written in an assembler text
(R89, R90), whose operand is a number not yet checked. -/

namespace Sys2Proof

/-- The eight commands of the block, in the order of the opcode map (R81), with the operands of R82. -/
inductive Instr where
  /-- R131 -/
  | init
  /-- R141 -/
  | start
  /-- R145 -/
  | stop
  /-- R161: the operand is `arg[7:0]`. -/
  | sendByte (v : Byte)
  /-- R165 -/
  | receiveByte
  /-- R181 -/
  | waitAck
  /-- R183: the operand is `arg[0]`, 0 = ACK, 1 = NACK. -/
  | sendAck (b : Bit)
  /-- R186 -/
  | receiveAck
deriving DecidableEq, Repr

/-- The mnemonics of the source's interface table (R81), the names a text may use. -/
inductive Mnemonic where
  | init | start | stop | sendByte | receiveByte | waitAck | sendAck | receiveAck
deriving DecidableEq, Repr

/-- A command as written: its mnemonic and the number in its parentheses, if there is one (R89). -/
structure Call where
  name : Mnemonic
  operand : Option Nat
deriving DecidableEq, Repr

end Sys2Proof
end

