-- ==== Sys2Proof/WellFormed.lean ====
section
/-! DEFINITION. Which written commands the assembler accepts (spec/30_encoding.md R89). A term of `Instr` carries its
operand at its exact width, so every one of them is well-formed; the checks are those on a written `Call`. -/

namespace Sys2Proof

/-- R89: an operand "must be 0 to 255 for `sendByte` and 0 or 1 for `sendAck`, and the assembler rejects anything
else"; "Empty parentheses for a command with no operand." -/
def Call.wf (c : Call) : Bool :=
  match c.name, c.operand with
  | .sendByte, some n => n ≤ 255
  | .sendAck, some n => n ≤ 1
  | .sendByte, none => false
  | .sendAck, none => false
  | .init, o => o.isNone
  | .start, o => o.isNone
  | .stop, o => o.isNone
  | .receiveByte, o => o.isNone
  | .waitAck, o => o.isNone
  | .receiveAck, o => o.isNone

/-- Every term of `Instr` is well-formed: `sendByte` carries exactly 8 bits and `sendAck` exactly 1 (R82). Written
out per command, so that a command added later must be considered here. -/
def Instr.wf (i : Instr) : Bool :=
  match i with
  | .init => true
  | .start => true
  | .stop => true
  | .sendByte v => v.toNat ≤ 255
  | .receiveByte => true
  | .waitAck => true
  | .sendAck b => b.toNat ≤ 1
  | .receiveAck => true

end Sys2Proof
end

