-- ==== Sys2Proof/Decode.lean ====
section
/-! DEFINITION. The decoder and the encoder of the command word (spec/30_encoding.md R80 to R84). -/

namespace Sys2Proof

/-- `op = word[10:8]` (R80). -/
def opField (w : CmdWord) : BitVec 3 := w.extractLsb' 8 3

/-- `arg = word[7:0]` (R80). -/
def argField (w : CmdWord) : Byte := w.extractLsb' 0 8

/-- The decoder of the command word: total, since "Every one of the 2048 values of the command word is a legal
command" (R83); the operands are those of R82, the other bits are ignored. -/
def decode (w : CmdWord) : Instr :=
  match (opField w).toNat with
  | 0 => .init
  | 1 => .start
  | 2 => .stop
  | 3 => .sendByte (argField w)
  | 4 => .receiveByte
  | 5 => .waitAck
  | 6 => .sendAck ((argField w).extractLsb' 0 1)
  | _ => .receiveAck

/-- Why a number is no command word. -/
inductive DecodeError where
  /-- The number does not fit the 11 bits of the port `cmd_word` (R80, R85). -/
  | widerThanCommandWord
deriving DecidableEq, Repr

/-- The decoder on any number: a number that does not fit 11 bits is no command word (R80: "one command length: 11
bits"). -/
def decodeNat (w : Nat) : Except DecodeError Instr :=
  if w < 2048 then .ok (decode (BitVec.ofNat 11 w)) else .error .widerThanCommandWord

/-- The decoder on an instruction numbered as spec/opcode_table.json numbers it (log 15). -/
def decodeTableWord (nbits w : Nat) : Option Instr :=
  match decodeNat (w % 2 ^ nbits) with
  | .ok i => some i
  | .error _ => none

/-- The opcode of a command (R81). -/
def opcode (i : Instr) : BitVec 3 :=
  match i with
  | .init => 0
  | .start => 1
  | .stop => 2
  | .sendByte _ => 3
  | .receiveByte => 4
  | .waitAck => 5
  | .sendAck _ => 6
  | .receiveAck => 7

/-- The canonical `arg` of a command: the operand, all ignored bits 0 (R82, R83). -/
def canonicalArg (i : Instr) : Byte :=
  match i with
  | .init => 0
  | .start => 0
  | .stop => 0
  | .sendByte v => v
  | .receiveByte => 0
  | .waitAck => 0
  | .sendAck b => b.setWidth 8
  | .receiveAck => 0

/-- The encoder: the canonical command word of a command (R83, R84). -/
def encode (i : Instr) : CmdWord := opcode i ++ canonicalArg i

/-- The mask of significant bits of a command's word (R84, last column). -/
def significantMask (i : Instr) : CmdWord :=
  match i with
  | .init => 0x700
  | .start => 0x700
  | .stop => 0x700
  | .sendByte _ => 0x7FF
  | .receiveByte => 0x700
  | .waitAck => 0x700
  | .sendAck _ => 0x701
  | .receiveAck => 0x700

end Sys2Proof
end

