-- ==== Sys2Proof/Config.lean ====
section
/-! DEFINITION. What an implementation fixes and what the spec leaves open: the parameters of R8, and the free values.
None of them has a body, so no proof can use a particular value. -/

namespace Sys2Proof.Config

/-- `T_SETTLE`, the settle delay after every pin operation: any duration greater than zero (R8, R234; log 16). -/
opaque tSettle : ℕ+

/-- `T_INIT`, the bus-stabilisation delay of `init`: any duration greater than zero (R8, R234; log 16). -/
opaque tInit : ℕ+

/-- Free value: the level the environment puts on the Data line at a `ReadData` for which the environment script says
nothing (R56: "an oracle answer, under no law"; log 3). -/
opaque freeSdaEnv : Nat → Level

/-- Free value: what `SHREG` holds after a command completes (R26: "unspecified"; log 5). -/
opaque freeShReg : Nat → Byte

/-- Free value: what `ACKREG` holds after `receiveAck` completes (R27: "unspecified"; log 5). -/
opaque freeAckReg : Nat → Bit

/-- Free value: what `UPC` holds after a command completes (R171: the terminal count "is never stored"; log 6). -/
opaque freeUpc : Nat → BitVec 5

/-- Free value: the level of `dly_kind` while `dly_req = 0` (R233: "valid with `dly_req`"; log 23). -/
opaque freeDlyKind : Nat → Bit

/-- Free value: whether a reset that finds both lines held `LOW` takes Data `HIGH` after Clock, a STOP edge (R253: "which
line the wire shows rising first is not defined"; log 22). -/
opaque freeResetStop : Nat → Bool

end Sys2Proof.Config
end

