-- ==== Sys2Proof/Machine/State.lean ====
section
/-! DEFINITION. The state of the block (spec/10_state.md), the inputs from outside it held as plain data, the reasons
a step can stop, and the state after reset. -/

namespace Sys2Proof.Machine

/-- The two delays the block asks for (R113, R233: `dly_kind` 0 = `SETTLE`, 1 = `INIT`). -/
inductive DelayKind where
  | settle
  | init
deriving DecidableEq, Repr

/-- The event alphabet (R14). -/
inductive Event where
  /-- `OD`: both pads configured as open-drain outputs -/
  | openDrain
  /-- `C0`, `C1` -/
  | clock (l : Level)
  /-- `D0`, `D1` -/
  | data (l : Level)
  /-- `RD0`, `RD1` -/
  | read (l : Level)
  /-- `TI` -/
  | initDelay
  /-- `=v` -/
  | response (v : Byte)
deriving DecidableEq, Repr

/-- Where the caller stands in the transaction state machine (R33). Ghost. -/
inductive Phase where
  | uninit
  | idle
  | captured
deriving DecidableEq, Repr

/-- The block's input pins during one micro-step: `rst` (R250), `dly_done` (R233) and `cmd_valid` (R85). -/
structure Pins where
  rst : Bool
  dlyDone : Bool
  cmdValid : Bool
deriving DecidableEq, Repr

/-- What the outside of the block will do, as plain data (R35: "parameters of the step relation, not state"; log 1,
log 2, log 3). The MODEL's own. -/
structure Inputs where
  /-- The command words the host has not yet had accepted, next first. -/
  cmds : List CmdWord
  /-- The levels of `SDA_ENV` at the coming `ReadData` micro-operations; when it runs out, free draws. -/
  sdaEnv : List Level
  /-- The pins of the coming micro-steps; when it runs out, nothing disturbs the block (`rst = 0`, `dly_done` at every
  request, `cmd_valid = 1`). -/
  pins : List Pins
deriving DecidableEq, Repr

/-- The state of the block. -/
structure State where
  /-- `SCL_DRV` (R20) -/
  sclDrv : Level
  /-- `SDA_DRV` (R21) -/
  sdaDrv : Level
  /-- `CFG` (R22) -/
  cfg : Bool
  /-- `BUSY` (R24) -/
  busy : Bool
  /-- `CMDREG[10:0]` (R25) -/
  cmdReg : CmdWord
  /-- `SHREG[7:0]` (R26) -/
  shReg : Byte
  /-- `ACKREG` (R27) -/
  ackReg : Bit
  /-- `UPC[4:0]` (R28) -/
  upc : BitVec 5
  /-- `RSP_VALID` (R30) -/
  rspValid : Bool
  /-- `RSP_DATA[7:0]` (R30) -/
  rspData : Byte
  /-- The delay request not yet answered, with its `dly_kind` (R233, R252). -/
  dlyPending : Option DelayKind
  /-- `TRACE`, oldest first (R32). Ghost. -/
  trace : List Event
  /-- `PHASE` (R33). Ghost. -/
  phase : Phase
  /-- The outside of the block (R35, R64). The MODEL's own. -/
  inp : Inputs
  /-- The counter free values are drawn with (log 3, log 5, log 6). The MODEL's own. -/
  freeIdx : Nat
deriving DecidableEq, Repr

/-- The block raises no exception and has no fault (R220: "The block raises no exception, ever"), so no step ends in
one: this type has no constructor. -/
inductive Fault where
deriving DecidableEq, Repr

/-- Why a step is given no meaning. -/
inductive Refusal where
  /-- An instruction the model has no meaning for. No arm of `exec` answers it; safe. -/
  | notModelled (mnemonic : String)
  /-- A command other than `init` accepted while `CFG = 0` (R23: "A model must *refuse*"; U1). Raised by the meanings of
  the seven commands other than `init`; safe (log 10). -/
  | commandBeforeInit
deriving DecidableEq, Repr

/-- The state after reset (R36, R251). `CMDREG`, `SHREG`, `ACKREG` and `RSP_DATA`, which R36 leaves unspecified, hold 0
(DESIGN CHOICE, unsafe: log 4); the model's own fields are empty and 0 (DESIGN CHOICE: log 14). -/
def State.reset : State where
  sclDrv := .high
  sdaDrv := .high
  cfg := false
  busy := false
  cmdReg := 0
  shReg := 0
  ackReg := 0
  upc := 0
  rspValid := false
  rspData := 0
  dlyPending := none
  trace := []
  phase := .uninit
  inp := { cmds := [], sdaEnv := [], pins := [] }
  freeIdx := 0

end Sys2Proof.Machine
end

