-- ==== Sys2Proof/Machine/Operands.lean ====
section
/-! DEFINITION. Operand forms and the arithmetic of the block: levels as bits, the bit masks of the byte commands, the
electrical level of the lines (spec/00_scope.md R10, spec/20_memory.md R53, R54, spec/43_byte_transfer.md R164, R169,
R171). -/

namespace Sys2Proof.Machine

/-- A bit as a level: 0 is `LOW`, 1 is `HIGH` (R10). -/
def levelOfBit (b : Bit) : Level := if b = 1#1 then .high else .low

/-- A level as a bit: `LOW` is 0, `HIGH` is 1 (R10). -/
def bitOfLevel (l : Level) : Bit :=
  match l with
  | .low => 0
  | .high => 1

/-- The wired AND of an open-drain line: `LOW` if any device pulls it `LOW` (R54). -/
def wiredAnd (a b : Level) : Level :=
  match a, b with
  | .high, .high => .high
  | .high, .low => .low
  | .low, _ => .low

/-- The mask `0x80 >> i` that selects bit `7 - i` of a byte (R29, R164). -/
def bitMask (i : Nat) : Byte := 0x80#8 >>> i

/-- The bit test of the send path, `(v & (0x80 >> i)) != 0`, as the level to drive (R161, R164). -/
def sendLevel (v : Byte) (i : Nat) : Level := if v &&& bitMask i ≠ 0 then .high else .low

/-- The receive path: `if s = HIGH then SHREG <- SHREG | (0x80 >> i)` (R165, R169). -/
def orSample (acc : Byte) (i : Nat) (l : Level) : Byte :=
  match l with
  | .high => acc ||| bitMask i
  | .low => acc

/-- `SDA_LINE()` for an environment level `env`: `SDA_DRV AND SDA_ENV` (R54). -/
def sdaLine (s : State) (env : Level) : Level := wiredAnd s.sdaDrv env

/-- `SCL_LINE = SCL_DRV` (R53; the premise that no other device drives Clock is log 12). -/
def sclLine (s : State) : Level := s.sclDrv

end Sys2Proof.Machine
end

