-- ==== Sys2Proof/Machine/Flags.lean ====
section
/-! DEFINITION. The block has no condition codes (spec/10_state.md R31, R37). What stands in their place: the admission
bit `CFG` (R23), `cmd_ready` (R24) and the acknowledge bit as a response (spec/44_acknowledge.md R186). -/

namespace Sys2Proof.Machine

/-- `cmd_ready = not BUSY` (R24, R85). -/
def cmdReady (s : State) : Bool := !s.busy

/-- Whether a command has a meaning in this state: `init` always, every other command when `CFG = 1` (R23, R130,
R203). -/
def admitted (s : State) (i : Instr) : Bool :=
  match i with
  | .init => true
  | .start => s.cfg
  | .stop => s.cfg
  | .sendByte _ => s.cfg
  | .receiveByte => s.cfg
  | .waitAck => s.cfg
  | .sendAck _ => s.cfg
  | .receiveAck => s.cfg

/-- The acknowledge bit of a sample: 0 if `LOW`, 1 if `HIGH` (R186). -/
def ackOfSample (l : Level) : Bit := bitOfLevel l

/-- `zext_8(ACKREG)`, the response of `receiveAck` (R88, R186). -/
def ackResponse (b : Bit) : Byte := b.setWidth 8

end Sys2Proof.Machine
end

