-- ==== Sys2Proof/Machine/Ops.lean ====
section
/-! DEFINITION. The named operations: accept and completion of a command (spec/30_encoding.md R86, R87), the
micro-operations of the pin driver (spec/40_pin_driver.md R110 to R114), reset as an event
(spec/70_reset_and_hazards.md R251, R252). The block takes no exception and has no return from one (R220, R225, R226),
so there is no such operation here. -/

namespace Sys2Proof.Machine

/-! Elementary updates. -/

/-- `Emit(e)` (R32). -/
def emit (e : Event) (s : State) : State := { s with trace := s.trace ++ [e] }

/-- `SCL_DRV <- l`. -/
def setScl (l : Level) (s : State) : State := { s with sclDrv := l }

/-- `SDA_DRV <- l`. -/
def setSda (l : Level) (s : State) : State := { s with sdaDrv := l }

/-- `CFG <- 1`. -/
def setCfg (s : State) : State := { s with cfg := true }

/-- `SHREG <- v`. -/
def setShReg (v : Byte) (s : State) : State := { s with shReg := v }

/-- `ACKREG <- b`. -/
def setAckReg (b : Bit) (s : State) : State := { s with ackReg := b }

/-- `PHASE <- p` (ghost, R33). -/
def setPhase (p : Phase) (s : State) : State := { s with phase := p }

/-- The block has asked the delay provider for a delay of kind `k` and waits for `dly_done` (R113, R233). The pulse
`dly_req` itself is an output of the step that asks (`outPorts`, log 8). -/
def requestDelay (k : DelayKind) (s : State) : State := { s with dlyPending := some k }

/-- A micro-operation finishes, its delay included: the request is answered and `UPC <- UPC + 1` (R28, R110). -/
def advance (s : State) : State := { s with dlyPending := none, upc := s.upc + 1 }

/-! The environment's level at a `ReadData` (R56; log 3). -/

/-- The level `SDA_ENV` of the next draw: the script's next level, else a free value. -/
def envLevel (s : State) : Level :=
  match s.inp.sdaEnv with
  | l :: _ => l
  | [] => Config.freeSdaEnv s.freeIdx

/-- The state after that draw. -/
def envDrawn (s : State) : State :=
  match s.inp.sdaEnv with
  | _ :: ls => { s with inp := { s.inp with sdaEnv := ls } }
  | [] => { s with freeIdx := s.freeIdx + 1 }

/-- The next `n` draws of `SDA_ENV`, first draw first. -/
def envLevels (n : Nat) (s : State) : List Level :=
  match n with
  | 0 => []
  | n + 1 => envLevel s :: envLevels n (envDrawn s)

/-- The state after `n` draws. -/
def envDrawnN (n : Nat) (s : State) : State :=
  match n with
  | 0 => s
  | n + 1 => envDrawnN n (envDrawn s)

/-! Micro-operations. -/

/-- Where a sample goes (R118: "`ReadData()` into bit `7-i` of `SHREG`", "`ReadData()` into `ACKREG`"). -/
inductive Sink where
  | shReg (i : Nat)
  | ackReg
deriving DecidableEq, Repr

/-- The micro-operations commands are made of (R12, R118). `writeSendBit i` is the `WriteData` of `sendByte`, whose
level is the bit test on `SHREG` (R161). -/
inductive MicroOp where
  | configOpenDrain
  | writeClock (l : Level)
  | writeData (l : Level)
  | writeSendBit (i : Nat)
  | readData (d : Sink)
  | delayInit
deriving DecidableEq, Repr

/-- The delay a micro-operation asks for: every pin write and read the settle delay, `Delay(INIT)` the init delay,
`ConfigOpenDrain` none (R110 to R114, R275). -/
def MicroOp.delay (m : MicroOp) : Option DelayKind :=
  match m with
  | .configOpenDrain => none
  | .writeClock _ => some .settle
  | .writeData _ => some .settle
  | .writeSendBit _ => some .settle
  | .readData _ => some .settle
  | .delayInit => some .init

/-- `WriteClock(l)` up to its delay (R110). -/
def beginWriteClock (l : Level) (s : State) : State := requestDelay .settle (emit (.clock l) (setScl l s))

/-- `WriteData(l)` up to its delay (R111). -/
def beginWriteData (l : Level) (s : State) : State := requestDelay .settle (emit (.data l) (setSda l s))

/-- A sample put where it belongs (R165, R186; at the sample, log 11). -/
def storeSample (d : Sink) (l : Level) (s : State) : State :=
  match d with
  | .shReg i => setShReg (orSample s.shReg i l) s
  | .ackReg => setAckReg (ackOfSample l) s

/-- `ReadData()` up to its delay: the sample is `SDA_LINE()` and is taken before the delay (R112). -/
def beginReadData (d : Sink) (s : State) : State :=
  requestDelay .settle (storeSample d (sdaLine s (envLevel s)) (emit (.read (sdaLine s (envLevel s))) (envDrawn s)))

/-- `ConfigOpenDrain()`, which takes no delay (R114). -/
def beginConfigOpenDrain (s : State) : State := emit .openDrain (setCfg s)

/-- `Delay(INIT)` as a micro-operation of its own: the event `TI` (R113). That `TI` enters the trace when the delay is
requested, and not when it has ended, is the model's choice (DESIGN CHOICE: log 21). -/
def beginDelayInit (s : State) : State := requestDelay .init (emit .initDelay s)

/-- A micro-operation up to its delay. -/
def beginMicro (m : MicroOp) (s : State) : State :=
  match m with
  | .configOpenDrain => beginConfigOpenDrain s
  | .writeClock l => beginWriteClock l s
  | .writeData l => beginWriteData l s
  | .writeSendBit i => beginWriteData (sendLevel s.shReg i) s
  | .readData d => beginReadData d s
  | .delayInit => beginDelayInit s

/-- A micro-operation whole, its delay answered (R117). -/
def performMicro (m : MicroOp) (s : State) : State := advance (beginMicro m s)

/-- Micro-operations one after the other, in the order written (R12, R61). -/
def performAll (ms : List MicroOp) (s : State) : State :=
  match ms with
  | [] => s
  | m :: ms => performAll ms (performMicro m s)

/-! Accept and completion. -/

/-- The command port's part of accept: `CMDREG <- cmd_word`, and the host's next word is the following one (R63, R86).
The response of the command before was valid until here (R87; log 7). -/
def latch (w : CmdWord) (s : State) : State :=
  { s with cmdReg := w, rspValid := false, inp := { s.inp with cmds := s.inp.cmds.tail } }

/-- The sequencer's part of accept: `BUSY <- 1`, `UPC <- 0` (R86). -/
def occupy (s : State) : State := { s with busy := true, upc := 0 }

/-- `Respond(v)` (R87). -/
def respond (v : Byte) (s : State) : State :=
  { s with rspData := v, rspValid := true, busy := false, trace := s.trace ++ [.response v] }

/-- What the spec leaves unspecified once a command has completed: `SHREG` (R26) and `UPC` (R171) hold free values
(log 5, log 6). -/
def release (s : State) : State :=
  { s with shReg := Config.freeShReg s.freeIdx, upc := Config.freeUpc s.freeIdx, freeIdx := s.freeIdx + 1 }

/-- What R27 leaves unspecified once `receiveAck` has completed: `ACKREG` holds a free value (log 5). -/
def releaseAckReg (s : State) : State := { s with ackReg := Config.freeAckReg s.freeIdx }

/-- Completion with response `v`. -/
def complete (v : Byte) (s : State) : State := release (respond v s)

/-- One command from accept to completion: `load` is what accept writes beside `BUSY` and `UPC` (R86), `seq` its
micro-operations, `finish` its completion. -/
def runCommand (load : State → State) (seq : List MicroOp) (finish : State → State) (s : State) : State :=
  finish (performAll seq (load (occupy s)))

/-- R23: when `CFG = 0` a command other than `init` is refused. -/
def whenConfigured (next : State → State) (s : State) : Host.Outcome State Fault Refusal :=
  if s.cfg then .next (next s) else .refused .commandBeforeInit

/-! Between commands. -/

/-- No command is accepted: the block waits, and a response lasts one cycle (R87, R251). -/
def waitIdle (s : State) : State := { s with rspValid := false }

/-- The pins of one micro-step are used up. -/
def dropPins (s : State) : State := { s with inp := { s.inp with pins := s.inp.pins.tail } }

/-- Reset as an event: whatever the block is doing, its state is that of R251; the outside keeps what it was going to
do (R252; log 9). -/
def resetBlock (s : State) : State := { State.reset with inp := s.inp, freeIdx := s.freeIdx }

end Sys2Proof.Machine
end

