-- ==== Sys2Proof/Machine/Acknowledge.lean ====
section
/-! DEFINITION. The master-side ACK/NACK controller: the commands `waitAck`, `sendAck` and `receiveAck`
(spec/44_acknowledge.md). -/

namespace Sys2Proof.Machine

/-- The micro-operations of `waitAck`: a clock pulse that neither writes nor reads Data (R181; spec/90_conflicts.md
C5). -/
def waitAckSeq : List MicroOp := [.writeClock .high, .writeClock .low]

/-- Completion of `waitAck`: `Respond(0x00)` (R181). -/
def waitAckFinish (s : State) : State := complete 0x00 s

/-- `waitAck` (R181). -/
def execWaitAck (s : State) : Host.Outcome State Fault Refusal :=
  whenConfigured (runCommand id waitAckSeq waitAckFinish) s

/-- The micro-operations of `sendAck b` (R183). -/
def sendAckSeq (b : Bit) : List MicroOp := [.writeData (levelOfBit b), .writeClock .high, .writeClock .low]

/-- Completion of `sendAck`: `Respond(0x00)` (R183). -/
def sendAckFinish (s : State) : State := complete 0x00 s

/-- `sendAck b` (R183). -/
def execSendAck (b : Bit) (s : State) : Host.Outcome State Fault Refusal :=
  whenConfigured (runCommand id (sendAckSeq b) sendAckFinish) s

/-- The micro-operations of `receiveAck` (R186). -/
def receiveAckSeq : List MicroOp :=
  [.writeData .high, .writeClock .high, .readData .ackReg, .writeClock .low]

/-- Completion of `receiveAck`: `Respond(zext_8(ACKREG))`, after which the content of `ACKREG` is unspecified (R27,
R186). -/
def receiveAckFinish (s : State) : State := complete (ackResponse s.ackReg) (releaseAckReg s)

/-- `receiveAck` (R186). A NACK is a value, not a failure (R188). -/
def execReceiveAck (s : State) : Host.Outcome State Fault Refusal :=
  whenConfigured (runCommand id receiveAckSeq receiveAckFinish) s

end Sys2Proof.Machine
end

