-- ==== Sys2Proof/Machine/ByteTransfer.lean ====
section
/-! DEFINITION. The byte transmitter and the byte receiver: the commands `sendByte` and `receiveByte`
(spec/43_byte_transfer.md). -/

namespace Sys2Proof.Machine

/-- The iterations of a byte command: `for i in 0..7` (R12, R160). -/
def byteIterations : List Nat := [0, 1, 2, 3, 4, 5, 6, 7]

/-- One iteration of `sendByte` (R161). -/
def sendBitSeq (i : Nat) : List MicroOp := [.writeSendBit i, .writeClock .high, .writeClock .low]

/-- The micro-operations of `sendByte` (R161). -/
def sendByteSeq : List MicroOp := byteIterations.flatMap sendBitSeq

/-- Accept of `sendByte v`: `SHREG <- v` (R86). -/
def sendByteLoad (v : Byte) (s : State) : State := setShReg v s

/-- Completion of `sendByte`: `Respond(0x00)` (R161). -/
def sendByteFinish (s : State) : State := complete 0x00 s

/-- `sendByte v` (R161). -/
def execSendByte (v : Byte) (s : State) : Host.Outcome State Fault Refusal :=
  whenConfigured (runCommand (sendByteLoad v) sendByteSeq sendByteFinish) s

/-- One iteration of `receiveByte` (R165). -/
def receiveBitSeq (i : Nat) : List MicroOp := [.writeClock .high, .readData (.shReg i), .writeClock .low]

/-- The micro-operations of `receiveByte`: Data is released once, before the loop (R165). -/
def receiveByteSeq : List MicroOp := .writeData .high :: byteIterations.flatMap receiveBitSeq

/-- Accept of `receiveByte`: `SHREG <- 0x00` (R86). -/
def receiveByteLoad (s : State) : State := setShReg 0x00 s

/-- Completion of `receiveByte`: `Respond(SHREG)` (R165). -/
def receiveByteFinish (s : State) : State := complete s.shReg s

/-- `receiveByte` (R165). -/
def execReceiveByte (s : State) : Host.Outcome State Fault Refusal :=
  whenConfigured (runCommand receiveByteLoad receiveByteSeq receiveByteFinish) s

end Sys2Proof.Machine
end

