-- ==== Sys2Proof/Machine/Init.lean ====
section
/-! DEFINITION. Initialisation: the command `init` (spec/41_init.md). -/

namespace Sys2Proof.Machine

/-- The micro-operations of `init` (R131): configuration, Clock released, Data released, the long delay. -/
def initSeq : List MicroOp := [.configOpenDrain, .writeClock .high, .writeData .high, .delayInit]

/-- Completion of `init`: `PHASE <- IDLE`, `Respond(0x00)` (R131). -/
def initFinish (s : State) : State := complete 0x00 (setPhase .idle s)

/-- `init` (R131), the one command with a meaning when `CFG = 0` (R130). -/
def execInit (s : State) : Host.Outcome State Fault Refusal := .next (runCommand id initSeq initFinish s)

end Sys2Proof.Machine
end

