-- ==== Sys2Proof/Machine/StartStop.lean ====
section
/-! DEFINITION. The START/STOP generator: the commands `start` and `stop` (spec/42_start_stop.md). -/

namespace Sys2Proof.Machine

/-- The micro-operations of `start` (R141). -/
def startSeq : List MicroOp := [.writeClock .high, .writeData .high, .writeData .low, .writeClock .low]

/-- Completion of `start`: `PHASE <- CAPTURED`, `Respond(0x00)` (R141). -/
def startFinish (s : State) : State := complete 0x00 (setPhase .captured s)

/-- `start` (R141); nothing of the bus is checked (R142). -/
def execStart (s : State) : Host.Outcome State Fault Refusal :=
  whenConfigured (runCommand id startSeq startFinish) s

/-- The micro-operations of `stop` (R145), Clock first (spec/90_conflicts.md C1). -/
def stopSeq : List MicroOp := [.writeClock .high, .writeData .low, .writeData .high]

/-- Completion of `stop`: `PHASE <- IDLE`, `Respond(0x00)` (R145). -/
def stopFinish (s : State) : State := complete 0x00 (setPhase .idle s)

/-- `stop` (R145); nothing of the bus is checked (R146). -/
def execStop (s : State) : Host.Outcome State Fault Refusal :=
  whenConfigured (runCommand id stopSeq stopFinish) s

end Sys2Proof.Machine
end

