-- ==== Sys2Proof/Machine/Dispatch.lean ====
section
/-! DEFINITION. The dispatch of the eight commands (spec/30_encoding.md R81): one arm per command. -/

namespace Sys2Proof.Machine

def exec (i : Instr) (s : State) : Host.Outcome State Fault Refusal :=
  match i with
  | .init => Sys2Proof.Machine.execInit s
  | .start => Sys2Proof.Machine.execStart s
  | .stop => Sys2Proof.Machine.execStop s
  | .sendByte v => Sys2Proof.Machine.execSendByte v s
  | .receiveByte => Sys2Proof.Machine.execReceiveByte s
  | .waitAck => Sys2Proof.Machine.execWaitAck s
  | .sendAck b => Sys2Proof.Machine.execSendAck b s
  | .receiveAck => Sys2Proof.Machine.execReceiveAck s

end Sys2Proof.Machine
end

