-- ==== Sys2Proof/Machine/Sequencer.lean ====
section
/-! DEFINITION. The micro-sequencer: the block one micro-operation at a time, under the pins of that micro-step
(spec/40_pin_driver.md R117, R118; spec/10_state.md R28; spec/60_exceptions.md R233). The command-grain meanings of
`exec` are the same sequences run to their end. -/

namespace Sys2Proof.Machine

/-- The micro-operations of a command, by index (R118). -/
def seqOf (i : Instr) : List MicroOp :=
  match i with
  | .init => initSeq
  | .start => startSeq
  | .stop => stopSeq
  | .sendByte _ => sendByteSeq
  | .receiveByte => receiveByteSeq
  | .waitAck => waitAckSeq
  | .sendAck b => sendAckSeq b
  | .receiveAck => receiveAckSeq

/-- `LEN(op)` (R28). -/
def lenOf (i : Instr) : Nat := (seqOf i).length

/-- What accept writes beside `BUSY` and `UPC` (R86). -/
def loadOf (i : Instr) (s : State) : State :=
  match i with
  | .init => s
  | .start => s
  | .stop => s
  | .sendByte v => sendByteLoad v s
  | .receiveByte => receiveByteLoad s
  | .waitAck => s
  | .sendAck _ => s
  | .receiveAck => s

/-- The completion of a command (R87). -/
def finishOf (i : Instr) (s : State) : State :=
  match i with
  | .init => initFinish s
  | .start => startFinish s
  | .stop => stopFinish s
  | .sendByte _ => sendByteFinish s
  | .receiveByte => receiveByteFinish s
  | .waitAck => waitAckFinish s
  | .sendAck _ => sendAckFinish s
  | .receiveAck => receiveAckFinish s

/-- Accept alone: the command is in execution and no micro-operation has begun (R86); the admission of R23. -/
def acceptOnly (i : Instr) (s : State) : Host.Outcome State Fault Refusal :=
  if admitted s i then .next (loadOf i (occupy s)) else .refused .commandBeforeInit

/-- The end of the micro-operation at `UPC`: the next index, or completion when the command's length is reached, which
is never stored (R28, R87, R171). -/
def endMicro (i : Instr) (s : State) : State :=
  if s.upc.toNat + 1 < lenOf i then advance s else finishOf i (advance s)

/-- The micro-operation at `UPC` begun: it begins unless it is already waiting for its delay (R113). -/
def begunMicro (m : MicroOp) (s : State) : State := if s.dlyPending.isSome then s else beginMicro m s

/-- One micro-step of a block with `BUSY = 1`, for the command in `CMDREG`. The micro-operation at `UPC` begins, or goes on
waiting; it ends when it needs no delay or the provider answers (`done`), and waits otherwise (R113, R117, R233). -/
def microStep (done : Bool) (s : State) : State :=
  match (seqOf (decode s.cmdReg))[s.upc.toNat]? with
  | none => finishOf (decode s.cmdReg) s
  | some m =>
    if (begunMicro m s).dlyPending.isSome && !done then begunMicro m s
    else endMicro (decode s.cmdReg) (begunMicro m s)

/-- A step that nothing from outside disturbs: a busy block does one micro-operation; an idle one runs the command the
host presents from accept to response, or waits (R64; log 1). -/
def calmStep (s : State) : Host.Outcome State Fault Refusal :=
  if s.busy then .next (microStep true s)
  else
    match s.inp.cmds with
    | [] => .next (waitIdle s)
    | w :: _ => exec (decode w) (latch w s)

/-- A micro-step under given pins: reset wins (R224, R252); a busy block goes on and ignores the command port (R86); an
idle one accepts a presented command, and does no more in that step. -/
def pinStep (p : Pins) (s : State) : Host.Outcome State Fault Refusal :=
  if p.rst then .next (resetBlock s)
  else if s.busy then .next (microStep p.dlyDone s)
  else if p.cmdValid then
    match s.inp.cmds with
    | [] => .next (waitIdle s)
    | w :: _ => acceptOnly (decode w) (latch w s)
  else .next (waitIdle s)

/-- The host presents the word `w` next, to a block that can accept it and that nothing disturbs. -/
def presentWord (w : CmdWord) (s : State) : State :=
  { s with busy := false, dlyPending := none, inp := { s.inp with cmds := w :: s.inp.cmds, pins := [] } }

end Sys2Proof.Machine
end

