-- ==== Sys2Proof/Machine/Step.lean ====
section
/-! DEFINITION. The step function. The pins held in State say how far a step goes (log 1): with none left, a step of an
idle block is a whole command; with some, a step is one micro-step under the next of them. -/

namespace Sys2Proof.Machine

/-- One step of the machine (R64, R117, R224). -/
def step (s : State) : Host.Outcome State Fault Refusal :=
  match s.inp.pins with
  | [] => calmStep s
  | p :: _ => pinStep p (dropPins s)

/-- The state in which the host presents the command word of bits `w` next and nothing disturbs the block, so that the
next step is that command (log 15). -/
def State.withFetchWord (s : State) (nbits w : Nat) : State :=
  presentWord (BitVec.ofNat 11 (w % 2 ^ nbits)) s

end Sys2Proof.Machine
end

