-- ==== Sys2Proof/Machine/Assembler.lean ====
section
/-! DEFINITION. The assembler and the disassembler (spec/30_encoding.md R83, R89, R90, R91). A text is a list of
characters. What R89 and R90 leave open of the text form is log 13. -/

namespace Sys2Proof.Machine

/-- The spelling of a mnemonic, case-sensitive (R89). -/
def spelling (m : Mnemonic) : List Char :=
  match m with
  | .init => ['i', 'n', 'i', 't']
  | .start => ['s', 't', 'a', 'r', 't']
  | .stop => ['s', 't', 'o', 'p']
  | .sendByte => ['s', 'e', 'n', 'd', 'B', 'y', 't', 'e']
  | .receiveByte => ['r', 'e', 'c', 'e', 'i', 'v', 'e', 'B', 'y', 't', 'e']
  | .waitAck => ['w', 'a', 'i', 't', 'A', 'c', 'k']
  | .sendAck => ['s', 'e', 'n', 'd', 'A', 'c', 'k']
  | .receiveAck => ['r', 'e', 'c', 'e', 'i', 'v', 'e', 'A', 'c', 'k']

/-- All mnemonics, in the order of R81. -/
def mnemonics : List Mnemonic :=
  [.init, .start, .stop, .sendByte, .receiveByte, .waitAck, .sendAck, .receiveAck]

/-- White space and line breaks, free between commands (R89). -/
def skipBlanks (t : List Char) : List Char := t.dropWhile fun c => [' ', '\t', '\n', '\r'].contains c

/-- The text after a prefix, if it begins with it. -/
def afterPrefix (p t : List Char) : Option (List Char) :=
  match p, t with
  | [], t => some t
  | _ :: _, [] => none
  | a :: p, c :: t => if a = c then afterPrefix p t else none

/-- The value of a digit in a base, 10 or 16 (R90). -/
def digitValue (base : Nat) (c : Char) : Option Nat :=
  let n := c.toNat
  if 48 ≤ n ∧ n ≤ 57 then some (n - 48)
  else if base = 16 ∧ 65 ≤ n ∧ n ≤ 70 then some (n - 55)
  else if base = 16 ∧ 97 ≤ n ∧ n ≤ 102 then some (n - 87)
  else none

/-- Digits in a base, as many as there are: the number and the text after it. -/
def digits (base acc : Nat) (t : List Char) : Nat × List Char :=
  match t with
  | [] => (acc, [])
  | c :: t =>
    match digitValue base c with
    | some d => digits base (acc * base + d) t
    | none => (acc, c :: t)

/-- One digit at least. -/
def digits1 (base : Nat) (t : List Char) : Option (Nat × List Char) :=
  match t with
  | [] => none
  | c :: t => (digitValue base c).map fun d => digits base d t

/-- `number ::= decimal | "0x" hexdigits` (R90). -/
def parseNumber (t : List Char) : Option (Nat × List Char) :=
  match afterPrefix ['0', 'x'] t with
  | some t => digits1 16 t
  | none => digits1 10 t

/-- The names `ACK` = 0 and `NACK` = 1 (R91). -/
def parseAckName (t : List Char) : Option (Nat × List Char) :=
  match afterPrefix ['A', 'C', 'K'] t with
  | some t => some (0, t)
  | none => (afterPrefix ['N', 'A', 'C', 'K'] t).map fun t => (1, t)

/-- The operand of a command: a number (R90), and for `sendAck` also one of the two names of R91 (log 13). -/
def parseOperand (m : Mnemonic) (t : List Char) : Option (Nat × List Char) :=
  if m = .sendAck then (parseAckName t).or (parseNumber t) else parseNumber t

/-- The mnemonic a text begins with, its opening parenthesis included. -/
def parseName (ms : List Mnemonic) (t : List Char) : Option (Mnemonic × List Char) :=
  match ms with
  | [] => none
  | m :: ms =>
    match afterPrefix (spelling m ++ ['(']) t with
    | some t => some (m, t)
    | none => parseName ms t

/-- `command ";"` (R90). -/
def parseCall (t : List Char) : Option (Call × List Char) :=
  match parseName mnemonics t with
  | none => none
  | some (m, t) =>
    match afterPrefix [')', ';'] t with
    | some t => some (⟨m, none⟩, t)
    | none =>
      match parseOperand m t with
      | none => none
      | some (n, t) => (afterPrefix [')', ';'] t).map fun t => (⟨m, some n⟩, t)

/-- `sequence ::= { command ";" }` (R90). Every command takes a character at least, so the length of the text is
enough fuel. -/
def parseCalls (fuel : Nat) (t : List Char) : Option (List Call) :=
  match fuel with
  | 0 => if (skipBlanks t).isEmpty then some [] else none
  | fuel + 1 =>
    match skipBlanks t with
    | [] => some []
    | c :: t =>
      match parseCall (c :: t) with
      | none => none
      | some (call, rest) => (parseCalls fuel rest).map (call :: ·)

/-- The command a written command stands for, if R89 accepts it. -/
def callInstr (c : Call) : Option Instr :=
  if c.wf then
    match c.name with
    | .init => some .init
    | .start => some .start
    | .stop => some .stop
    | .sendByte => some (.sendByte (BitVec.ofNat 8 (c.operand.getD 0)))
    | .receiveByte => some .receiveByte
    | .waitAck => some .waitAck
    | .sendAck => some (.sendAck (BitVec.ofNat 1 (c.operand.getD 0)))
    | .receiveAck => some .receiveAck
  else none

/-- All commands of a list of written ones, if all are accepted. -/
def callsInstrs (cs : List Call) : Option (List Instr) :=
  match cs with
  | [] => some []
  | c :: cs =>
    match callInstr c, callsInstrs cs with
    | some i, some is => some (i :: is)
    | _, _ => none

/-- The assembler: a text to the list of canonical command words, in order (R90). -/
def assemble (t : List Char) : Option (List CmdWord) :=
  match parseCalls t.length t with
  | none => none
  | some cs => (callsInstrs cs).map (·.map encode)

/-- A hexadecimal digit. -/
def hexDigit (n : Nat) : Char := if n < 10 then Char.ofNat (48 + n) else Char.ofNat (55 + n)

/-- A byte as `0x` and two hexadecimal digits. -/
def hexByte (v : Byte) : List Char := ['0', 'x', hexDigit (v.toNat / 16), hexDigit (v.toNat % 16)]

/-- The mnemonic of a command (R81). -/
def mnemonicOf (i : Instr) : Mnemonic :=
  match i with
  | .init => .init
  | .start => .start
  | .stop => .stop
  | .sendByte _ => .sendByte
  | .receiveByte => .receiveByte
  | .waitAck => .waitAck
  | .sendAck _ => .sendAck
  | .receiveAck => .receiveAck

/-- The operand of a command as text. -/
def operandText (i : Instr) : List Char :=
  match i with
  | .init => []
  | .start => []
  | .stop => []
  | .sendByte v => hexByte v
  | .receiveByte => []
  | .waitAck => []
  | .sendAck b => [hexDigit b.toNat]
  | .receiveAck => []

/-- A command as text. -/
def printInstr (i : Instr) : List Char := spelling (mnemonicOf i) ++ ['('] ++ operandText i ++ [')', ';']

/-- The disassembler: "prints the command of rule R81 and drops ignored bits" (R83). -/
def disassemble (ws : List CmdWord) : List Char := ws.flatMap fun w => printInstr (decode w)

end Sys2Proof.Machine
end

