-- ==== Sys2Proof/Machine/Ports.lean ====
section
/-! DEFINITION. The output ports of the block as functions of its state (spec/20_memory.md R52; spec/30_encoding.md
R85; spec/60_exceptions.md R233). -/

namespace Sys2Proof.Machine

/-- `dly_kind` of a request: 0 = `SETTLE`, 1 = `INIT` (R233). -/
def dlyKindBit (k : DelayKind) : Bit :=
  match k with
  | .settle => 0
  | .init => 1

/-- The request pulsed on `dly_req` in the coming micro-step: that of the micro-operation at `UPC` if it is about to
begin. None between commands, none while an earlier request is unanswered, so a request is pulsed for one micro-step
whether or not it is answered in it (R113, R233; log 8). It does not look at the pins: it is there also in a state whose
coming micro-step is a reset, in which nothing begins (DESIGN CHOICE: log 24). -/
def delayRequest (s : State) : Option DelayKind :=
  if s.busy && s.dlyPending.isNone then
    ((seqOf (decode s.cmdReg))[s.upc.toNat]?).bind fun m => (beginMicro m s).dlyPending
  else none

/-- The output ports (R52, R85, R233). -/
structure OutPorts where
  sclO : Bit
  sdaO : Bit
  cmdReady : Bool
  rspValid : Bool
  rspData : Byte
  dlyReq : Bool
  dlyKind : Bit
deriving DecidableEq, Repr

/-- The output ports in a state: `scl_o = SCL_DRV`, `sda_o = SDA_DRV` (R52), the command and response ports (R85), the
pulse `dly_req` and, valid with it, `dly_kind` (R233; a free value while `dly_req = 0`, log 23). -/
def outPorts (s : State) : OutPorts where
  sclO := bitOfLevel s.sclDrv
  sdaO := bitOfLevel s.sdaDrv
  cmdReady := Sys2Proof.Machine.cmdReady s
  rspValid := s.rspValid
  rspData := s.rspData
  dlyReq := (delayRequest s).isSome
  dlyKind := ((delayRequest s).map dlyKindBit).getD (Config.freeDlyKind s.freeIdx)

/-- The input `sda_i`, the level of the Data line for an environment level (R52, R54). -/
def sdaI (s : State) (env : Level) : Bit := bitOfLevel (sdaLine s env)

/-- `cmd_valid` of a step: the host presents a word (R85). -/
def cmdValid (s : State) : Bool :=
  match s.inp.pins with
  | [] => !s.inp.cmds.isEmpty
  | p :: _ => p.cmdValid && !s.inp.cmds.isEmpty

end Sys2Proof.Machine
end

