-- ==== Sys2Proof/Machine/Timing.lean ====
section
/-! DEFINITION. Durations counted in delays (spec/70_reset_and_hazards.md R275). Informative in the spec: no step
depends on them. -/

namespace Sys2Proof.Machine

/-- How many delays of a kind a list of micro-operations asks for. -/
def delayCount (k : DelayKind) (ms : List MicroOp) : Nat := ms.countP fun m => m.delay = some k

/-- The duration of a command for given `T_SETTLE` and `T_INIT` (R275). -/
def duration (tSettle tInit : Nat) (i : Instr) : Nat :=
  delayCount .settle (seqOf i) * tSettle + delayCount .init (seqOf i) * tInit

/-- The duration of a command with the parameters of R8. -/
def commandDuration (i : Instr) : Nat := duration Config.tSettle Config.tInit i

end Sys2Proof.Machine
end

