-- ==== Sys2Proof/Machine/Monitor.lean ====
section
/-! DEFINITION. What a bus monitor sees of a list of events: the drive history, master START and STOP edges, the
data-stable property (spec/20_memory.md R65 to R68), and what is read off a trace. -/

namespace Sys2Proof.Machine

/-- The pair (`SCL_DRV`, `SDA_DRV`) (R65). -/
abbrev Drive := Level × Level

/-- The drive pair of a state. -/
def driveOf (s : State) : Drive := (s.sclDrv, s.sdaDrv)

/-- The drive pair after an event: `C0`, `C1` set the first component, `D0`, `D1` the second, the others nothing
(R65). -/
def driveAfter (p : Drive) (e : Event) : Drive :=
  match e with
  | .clock l => (l, p.2)
  | .data l => (p.1, l)
  | .openDrain => p
  | .read _ => p
  | .initDelay => p
  | .response _ => p

/-- The drive pair after all of a list of events. -/
def driveEnd (p : Drive) (es : List Event) : Drive := es.foldl driveAfter p

/-- The drive history: the pairs after each event, starting from the pair before the first (R65). -/
def driveHistory (p : Drive) (es : List Event) : List Drive :=
  match es with
  | [] => [p]
  | e :: es => p :: driveHistory (driveAfter p e) es

/-- A master START edge: `D0` executed with both lines released (R66). -/
def isMasterStart (p : Drive) (e : Event) : Bool := p = (.high, .high) && e = .data .low

/-- A master STOP edge: `D1` executed with Clock released and Data driven `LOW` (R67). -/
def isMasterStop (p : Drive) (e : Event) : Bool := p = (.high, .low) && e = .data .high

/-- A START condition on the wire: a master START edge with `SDA_ENV = HIGH` at that instant (R66). -/
def isWireStart (p : Drive) (env : Level) (e : Event) : Bool := isMasterStart p e && env = .high

/-- A STOP condition on the wire: a master STOP edge with `SDA_ENV = HIGH` at that instant (R67). -/
def isWireStop (p : Drive) (env : Level) (e : Event) : Bool := isMasterStop p e && env = .high

/-- The master STOP edge of a reset that finds the drive pair `p`: reset releases both lines at the same instant, so Data
held `LOW` with Clock `HIGH` rises while Clock is `HIGH` (R253). With both held `LOW` it is not defined which line the
wire shows rising first: a free value (log 22). With Data released there is no Data edge. -/
def isResetStop (p : Drive) (draw : Nat) : Bool :=
  match p with
  | (.high, .low) => true
  | (.low, .low) => Config.freeResetStop draw
  | (.low, .high) => false
  | (.high, .high) => false

/-- The STOP condition on the wire of such a reset: the line rises only with `SDA_ENV = HIGH` at that instant (R67). -/
def isWireResetStop (p : Drive) (draw : Nat) (env : Level) : Bool := isResetStop p draw && env = .high

/-- How many of the events satisfy a test of the pair before the event and the event. -/
def countEvents (test : Drive → Event → Bool) (p : Drive) (es : List Event) : Nat :=
  match es with
  | [] => 0
  | e :: es => (if test p e then 1 else 0) + countEvents test (driveAfter p e) es

/-- The number of master START edges. -/
def masterStarts (p : Drive) (es : List Event) : Nat := countEvents isMasterStart p es

/-- The number of master STOP edges. -/
def masterStops (p : Drive) (es : List Event) : Nat := countEvents isMasterStop p es

/-- A Data write executed while `SCL_DRV = HIGH` (R68, R140). -/
def isDataWriteWithClockHigh (p : Drive) (e : Event) : Bool :=
  match e with
  | .data _ => p.1 = .high
  | _ => false

/-- The data-stable property: no `D0` or `D1` while `SCL_DRV = HIGH` (R68). -/
def dataStable (p : Drive) (es : List Event) : Bool := countEvents isDataWriteWithClockHigh p es = 0

/-- A `ReadData` executed while the block itself drives Data `LOW` (R116). -/
def isReadWhileDriving (p : Drive) (e : Event) : Bool :=
  match e with
  | .read _ => p.2 = .low
  | _ => false

/-- R116: the block never reads while it drives Data `LOW`. -/
def readsReleased (p : Drive) (es : List Event) : Bool := countEvents isReadWhileDriving p es = 0

/-- The Data levels driven during the clock pulses, one per `C1`, first pulse first (R162, R180). -/
def clockedLevels (p : Drive) (es : List Event) : List Level :=
  match es with
  | [] => []
  | .clock .high :: es => p.2 :: clockedLevels (.high, p.2) es
  | e :: es => clockedLevels (driveAfter p e) es

/-- An event without the value it carries in from outside: samples and responses are blanked (R208). -/
def eventShape (e : Event) : Event :=
  match e with
  | .openDrain => .openDrain
  | .clock l => .clock l
  | .data l => .data l
  | .read _ => .read .low
  | .initDelay => .initDelay
  | .response _ => .response 0

/-- The values responded, in order (R210). -/
def responses (es : List Event) : List Byte :=
  match es with
  | [] => []
  | .response v :: es => v :: responses es
  | _ :: es => responses es

/-- The events a step or a run has added to the trace. -/
def newEvents (s t : State) : List Event := t.trace.drop s.trace.length

/-- Whether the coming step is a reset (R252). -/
def resetsNext (s : State) : Bool :=
  match s.inp.pins with
  | [] => false
  | p :: _ => p.rst

/-- The number of master START edges of the step from `s` to `t`. A reset has no event and only releases lines, so it
makes none (R253). -/
def stepMasterStarts (s t : State) : Nat := if resetsNext s then 0 else masterStarts (driveOf s) (newEvents s t)

/-- The number of master STOP edges of the step from `s` to `t`: those of its events, or that of a reset (R253). -/
def stepMasterStops (s t : State) : Nat :=
  if resetsNext s then (if isResetStop (driveOf s) s.freeIdx then 1 else 0)
  else masterStops (driveOf s) (newEvents s t)

/-- Bit `k` of a byte as a level (R10). -/
def bitLevel (v : Byte) (k : Nat) : Level := if v.getLsbD k then .high else .low

/-- The pin events of `sendByte v` (R161): bit 7 first. -/
def sendByteEvents (v : Byte) : List Event :=
  [7, 6, 5, 4, 3, 2, 1, 0].flatMap fun k => [.data (bitLevel v k), .clock .high, .clock .low]

/-- The pin events of `receiveByte` for the samples it takes (R165). -/
def receiveByteEvents (samples : List Level) : List Event :=
  .data .high :: samples.flatMap fun l => [.clock .high, .read l, .clock .low]

/-- `{s0, s1, ..., s7}` with the first sample the most significant bit (R166). -/
def byteOfSamples (samples : List Level) : Byte :=
  BitVec.ofNat 8 (samples.foldl (fun n l => 2 * n + (bitOfLevel l).toNat) 0)

/-- A byte as the levels of its bits, most significant first (R57). -/
def samplesOfByte (v : Byte) : List Level := [7, 6, 5, 4, 3, 2, 1, 0].map (bitLevel v)

end Sys2Proof.Machine
end

