-- ==== Sys2Proof/Machine/Transactions.lean ====
section
/-! DEFINITION. Transaction-level sequencing: the caller's grammar (spec/45_transactions.md R201), the caller's state
machine (R200, R202), the line levels at command boundaries (R204). The block enforces none of it (R203). -/

namespace Sys2Proof.Machine

/-- A unit of a transaction: a byte and its acknowledge (R201). -/
inductive TransferUnit where
  | sendReceiveAck (v : Byte)
  | sendWaitAck (v : Byte)
  | receiveSendAck (b : Bit)
  | receiveWaitAck
deriving DecidableEq, Repr

/-- The two commands of a unit (R201). -/
def TransferUnit.commands (u : TransferUnit) : List Instr :=
  match u with
  | .sendReceiveAck v => [.sendByte v, .receiveAck]
  | .sendWaitAck v => [.sendByte v, .waitAck]
  | .receiveSendAck b => [.receiveByte, .sendAck b]
  | .receiveWaitAck => [.receiveByte, .waitAck]

/-- The commands of the units of a transaction, in order. -/
def unitsCommands (us : List TransferUnit) : List Instr := us.flatMap TransferUnit.commands

/-- `transaction ::= "start" { unit } "stop"` (R201). -/
def transactionCommands (us : List TransferUnit) : List Instr := .start :: unitsCommands us ++ [.stop]

/-- What may follow the first `init`: a transaction, or a further `init` between transactions (R201). -/
inductive SessionItem where
  | transaction (us : List TransferUnit)
  | reinit
deriving DecidableEq, Repr

/-- The commands of one item. -/
def SessionItem.commands (x : SessionItem) : List Instr :=
  match x with
  | .transaction us => transactionCommands us
  | .reinit => [.init]

/-- `session ::= "init" { transaction }` (R201). -/
def sessionCommands (xs : List SessionItem) : List Instr := .init :: xs.flatMap SessionItem.commands

/-- How many transactions a session has. -/
def transactionCount (xs : List SessionItem) : Nat :=
  match xs with
  | [] => 0
  | .transaction _ :: xs => transactionCount xs + 1
  | .reinit :: xs => transactionCount xs

/-- Where a caller stands that keeps to the grammar (R200, R201). -/
inductive CallerState where
  | fresh | idle | captured | sent | received
deriving DecidableEq, Repr

/-- The caller's state machine: `none` where the grammar does not allow the command (R202). -/
def callerNext (c : CallerState) (i : Instr) : Option CallerState :=
  match c, i with
  | .fresh, .init => some .idle
  | .idle, .init => some .idle
  | .idle, .start => some .captured
  | .captured, .stop => some .idle
  | .captured, .sendByte _ => some .sent
  | .captured, .receiveByte => some .received
  | .sent, .receiveAck => some .captured
  | .sent, .waitAck => some .captured
  | .received, .sendAck _ => some .captured
  | .received, .waitAck => some .captured
  | _, _ => none

/-- The caller's state machine over a command sequence. -/
def callerRun (c : CallerState) (is : List Instr) : Option CallerState :=
  match is with
  | [] => some c
  | i :: is =>
    match callerNext c i with
    | some c' => callerRun c' is
    | none => none

/-- A well-formed command sequence (R201): begun at `fresh`, ended between transactions. -/
def wellFormedSession (is : List Instr) : Bool := callerRun .fresh is = some .idle

/-- `SCL_DRV` after a command, from any prior state (R204). -/
def sclAfter (i : Instr) : Level :=
  match i with
  | .init => .high
  | .start => .low
  | .stop => .high
  | .sendByte _ => .low
  | .receiveByte => .low
  | .waitAck => .low
  | .sendAck _ => .low
  | .receiveAck => .low

/-- `SDA_DRV` after a command, `before` the level before it (R204). -/
def sdaAfter (i : Instr) (before : Level) : Level :=
  match i with
  | .init => .high
  | .start => .low
  | .stop => .high
  | .sendByte v => bitLevel v 0
  | .receiveByte => .high
  | .waitAck => before
  | .sendAck b => levelOfBit b
  | .receiveAck => .high

/-- `PHASE` after a command, `before` the phase before it (R33, R204). -/
def phaseAfter (i : Instr) (before : Phase) : Phase :=
  match i with
  | .init => .idle
  | .start => .captured
  | .stop => .idle
  | .sendByte _ => before
  | .receiveByte => before
  | .waitAck => before
  | .sendAck _ => before
  | .receiveAck => before

/-- The host will issue these commands next, as canonical words (R90). -/
def withCommands (is : List Instr) (s : State) : State := { s with inp := { s.inp with cmds := is.map encode } }

end Sys2Proof.Machine
end

