-- ==== Sys2Proof/Safety.lean ====
section
/-! DEFINITION. What claims about runs are stated in: the invariant of the machine and the bus invariant of
spec/10_state.md R34. -/

namespace Sys2Proof.Safety

open Sys2Proof.Machine

/-- While a command runs, the micro-step counter is the index of one of its micro-operations (R28: "`UPC` never
wraps"), and no response is presented (R24, R30). -/
def BusyShape (s : State) : Prop :=
  s.busy = true → s.upc.toNat < lenOf (decode s.cmdReg) ∧ s.rspValid = false

/-- No delay is outstanding between commands, and the one outstanding during a command is the one its micro-operation
asks for (R113, R233). -/
def DelayShape (s : State) : Prop :=
  (s.busy = false → s.dlyPending = none) ∧
  (s.busy = true → s.dlyPending.isSome = true →
    ∃ m, (seqOf (decode s.cmdReg))[s.upc.toNat]? = some m ∧ s.dlyPending = m.delay)

/-- Before `init` has configured the pads nothing runs but `init`, at its first micro-operation (R22, R23). -/
def ConfigShape (s : State) : Prop :=
  (s.busy = true → s.cfg = false → decode s.cmdReg = .init ∧ s.upc = 0) ∧
  (s.phase ≠ .uninit → s.cfg = true) ∧
  (s.cfg = true → s.phase = .uninit → s.busy = true ∧ decode s.cmdReg = .init)

/-- A command that reads has released Data from the moment its first micro-operation has begun (R116). -/
def ReadShape (s : State) : Prop :=
  s.busy = true → (decode s.cmdReg = .receiveByte ∨ decode s.cmdReg = .receiveAck) →
    (s.upc ≠ 0 ∨ s.dlyPending.isSome = true) → s.sdaDrv = .high

/-- During `sendByte v` the byte buffer holds `v` (R86, R161: "`SHREG` is not changed by the loop"). -/
def SendShape (s : State) : Prop :=
  s.busy = true → ∀ v, decode s.cmdReg = .sendByte v → s.shReg = v

/-- The invariant of the machine: it holds at reset and every step keeps it. -/
structure Inv (s : State) : Prop where
  busyShape : BusyShape s
  delayShape : DelayShape s
  configShape : ConfigShape s
  readShape : ReadShape s
  sendShape : SendShape s

/-- The source's bus invariant, "both lines idle HIGH when the bus is not in use" (R34). It is kept by sequences that
keep to the grammar of R201; an ill-formed one can break it (log 18). -/
def BusIdleHigh (s : State) : Prop :=
  s.phase = .idle → s.busy = false → s.sclDrv = .high ∧ s.sdaDrv = .high

/-- What every completed command leaves: `BUSY = 0`, the response `v` presented (R87), no delay outstanding, and the
command register and the host's further words and pins as they were. -/
def Answered (s t : State) (v : Byte) : Prop :=
  t.busy = false ∧ t.rspValid = true ∧ t.rspData = v ∧ t.dlyPending = none ∧ t.cmdReg = s.cmdReg ∧
    t.inp.cmds = s.inp.cmds ∧ t.inp.pins = s.inp.pins

/-- Nothing resets the block in the coming step. -/
def NoReset (s : State) : Prop := ∀ p, s.inp.pins.head? = some p → p.rst = false

/-- The block is between commands and nothing disturbs it: the next step is a whole command, or a wait. -/
def Ready (s : State) : Prop := s.busy = false ∧ s.inp.pins = []

end Sys2Proof.Safety
end

