-- ==== Sys2Proof/Certificates/Slice0/Obligations.lean ====
section
/-! DEFINITION. The statements about the model, for the provers. Each docstring says which rule of the spec it
formalises. In every statement about a command, what the spec leaves unspecified after a command (`SHREG`, R26; `UPC`,
R171; `ACKREG` after `receiveAck`, R27) is not mentioned. -/

open Sys2Proof Sys2Proof.Machine Sys2Proof.Safety

/-! ## Encoding -/

/-- R81, R82, R84: every command is read back from its canonical word. -/
def Obligations.DecodeEncodeRoundTrip : Prop :=
  ∀ i : Instr, i.wf = true → decode (encode i) = i

/-- R82, R83, R84: encoding what a word decodes to gives the word with its ignored bits 0. -/
def Obligations.EncodeDecodeClearsIgnoredBits : Prop :=
  ∀ w : CmdWord, encode (decode w) = w &&& significantMask (decode w)

/-- R82: the operand of each command, for every `arg`. -/
def Obligations.OperandsTakenFromArg : Prop :=
  ∀ arg : Byte,
    decode (0#3 ++ arg) = .init ∧ decode (1#3 ++ arg) = .start ∧ decode (2#3 ++ arg) = .stop ∧
    decode (3#3 ++ arg) = .sendByte arg ∧ decode (4#3 ++ arg) = .receiveByte ∧ decode (5#3 ++ arg) = .waitAck ∧
    decode (6#3 ++ arg) = .sendAck (BitVec.ofBool (arg.getLsbD 0)) ∧ decode (7#3 ++ arg) = .receiveAck

/-- R84: the canonical command words, the masks of significant bits, and the decoder's match on `word & 0x700`. -/
def Obligations.CanonicalWordsAndMasks : Prop :=
  (encode .init = 0x000 ∧ encode .start = 0x100 ∧ encode .stop = 0x200 ∧ encode .receiveByte = 0x400 ∧
    encode .waitAck = 0x500 ∧ encode .receiveAck = 0x700) ∧
  (∀ v : Byte, encode (.sendByte v) = 0x300 ||| v.setWidth 11) ∧
  (∀ b : Bit, encode (.sendAck b) = 0x600 ||| b.setWidth 11) ∧
  (significantMask .init = 0x700 ∧ significantMask .start = 0x700 ∧ significantMask .stop = 0x700 ∧
    significantMask .receiveByte = 0x700 ∧ significantMask .waitAck = 0x700 ∧ significantMask .receiveAck = 0x700) ∧
  (∀ v : Byte, significantMask (.sendByte v) = 0x7FF) ∧ (∀ b : Bit, significantMask (.sendAck b) = 0x701) ∧
  (∀ (w : CmdWord) (i : Instr), opcode (decode w) = opcode i ↔ w &&& 0x700 = (opcode i).setWidth 11 <<< 8)

/-- R83: every one of the 2048 words decodes; a number that needs more than 11 bits is no command word (the model's
choice, log 15). -/
def Obligations.EveryWordDecodes : Prop :=
  ∀ w : Nat, w < 65536 → ((∃ i, decodeTableWord 16 w = some i) ↔ w < 2048)

/-- Words of spec/95_test_vectors.md D-ENC, written out. -/
def Obligations.DecodeOfWrittenWords : Prop :=
  decode 0b00001010101 = .init ∧ decode 0b00110100101 = .start ∧ decode 0b01000000001 = .stop ∧
  decode 0b01100111100 = .sendByte 0x3C ∧ decode 0b10011111111 = .receiveByte ∧ decode 0b10110000000 = .waitAck ∧
  decode 0b11011111110 = .sendAck 0 ∧ decode 0b11000000011 = .sendAck 1 ∧ decode 0b11111111111 = .receiveAck

/-- R83, R89, R90: a sequence of commands printed by the disassembler's printer (whose form is the model's choice, log
13) is assembled to its canonical words. -/
def Obligations.AssembleOfPrintedSequence : Prop :=
  ∀ is : List Instr, assemble (is.flatMap printInstr) = some (is.map encode)

/-- R89: a written command is accepted exactly when its operand is in range, or absent where there is none. -/
def Obligations.AssemblerAcceptsExactlyRange : Prop :=
  (∀ n : Nat, (callInstr ⟨.sendByte, some n⟩).isSome = true ↔ n ≤ 255) ∧
  (∀ n : Nat, (callInstr ⟨.sendAck, some n⟩).isSome = true ↔ n ≤ 1) ∧
  callInstr ⟨.sendByte, none⟩ = none ∧ callInstr ⟨.sendAck, none⟩ = none ∧
  (∀ m : Mnemonic, m ≠ .sendByte → m ≠ .sendAck → ∀ o : Option Nat, (callInstr ⟨m, o⟩).isSome = true ↔ o = none)

/-! ## Reset, ports, lines -/

/-- R36: the state after reset; nothing is said of `CMDREG`, `SHREG`, `ACKREG` and `RSP_DATA`, which it leaves
unspecified. -/
def Obligations.ResetStateValues : Prop :=
  State.reset.sclDrv = .high ∧ State.reset.sdaDrv = .high ∧ State.reset.cfg = false ∧ State.reset.busy = false ∧
  State.reset.upc = 0 ∧ State.reset.rspValid = false ∧ State.reset.trace = [] ∧ State.reset.phase = .uninit

/-- R252: reset takes effect whatever the block is doing; the command in execution is abandoned without a response.
That the host's words, the script and the further pins stay is the model's choice (log 9). -/
def Obligations.ResetWinsAtOnce : Prop :=
  ∀ (s : State) (p : Pins) (ps : List Pins), s.inp.pins = p :: ps → p.rst = true →
    ∃ t, step s = .next t ∧ t.sclDrv = .high ∧ t.sdaDrv = .high ∧ t.cfg = false ∧ t.busy = false ∧ t.upc = 0 ∧
      t.rspValid = false ∧ t.dlyPending = none ∧ t.trace = [] ∧ t.phase = .uninit ∧ t.inp.cmds = s.inp.cmds ∧
      t.inp.sdaEnv = s.inp.sdaEnv ∧ t.inp.pins = ps

/-- R54: the three cases of the level of the Data line. -/
def Obligations.DataLineLevel : Prop :=
  ∀ (s : State) (env : Level),
    (s.sdaDrv = .low → sdaLine s env = .low) ∧ (s.sdaDrv = .high → env = .low → sdaLine s env = .low) ∧
    (s.sdaDrv = .high → env = .high → sdaLine s env = .high)

/-- R52: the line ports and their polarity. R24, R85: `cmd_ready = not BUSY`, `rsp_valid = RSP_VALID`,
`rsp_data = RSP_DATA`. The delay ports are in `DelayRequestPulse`. -/
def Obligations.LinePortsFollowDrives : Prop :=
  ∀ (s : State) (env : Level),
    ((outPorts s).sclO = 0 ↔ s.sclDrv = .low) ∧ ((outPorts s).sclO = 1 ↔ s.sclDrv = .high) ∧
    ((outPorts s).sdaO = 0 ↔ s.sdaDrv = .low) ∧ ((outPorts s).sdaO = 1 ↔ s.sdaDrv = .high) ∧
    (sdaI s env = 0 ↔ sdaLine s env = .low) ∧ (sdaI s env = 1 ↔ sdaLine s env = .high) ∧
    ((outPorts s).cmdReady = true ↔ s.busy = false) ∧ (outPorts s).rspValid = s.rspValid ∧
    (outPorts s).rspData = s.rspData

/-! ## The pin driver -/

/-- R110: `WriteClock(l)` drives the line at once and asks for the settle delay; with that answered, `SCL_DRV`, `TRACE`,
`UPC` are written and nothing else. -/
def Obligations.WriteClockEffect : Prop :=
  ∀ (l : Level) (s : State),
    beginMicro (.writeClock l) s =
      { s with sclDrv := l, trace := s.trace ++ [.clock l], dlyPending := some .settle } ∧
    performMicro (.writeClock l) s =
      { s with sclDrv := l, trace := s.trace ++ [.clock l], upc := s.upc + 1, dlyPending := none }

/-- R111: `WriteData(l)`, the same contract for the Data line. -/
def Obligations.WriteDataEffect : Prop :=
  ∀ (l : Level) (s : State),
    beginMicro (.writeData l) s =
      { s with sdaDrv := l, trace := s.trace ++ [.data l], dlyPending := some .settle } ∧
    performMicro (.writeData l) s =
      { s with sdaDrv := l, trace := s.trace ++ [.data l], upc := s.upc + 1, dlyPending := none }

/-- R112: `ReadData()` samples `SDA_LINE()` before its settle delay, changes no drive register, and writes `TRACE` and `UPC`; the sample goes to
the one register its command names (R165, R186). -/
def Obligations.ReadDataEffect : Prop :=
  ∀ (d : Sink) (s : State),
    (beginMicro (.readData d) s).trace = s.trace ++ [.read (sdaLine s (envLevel s))] ∧
    (beginMicro (.readData d) s).dlyPending = some .settle ∧
    (performMicro (.readData d) s).trace = s.trace ++ [.read (sdaLine s (envLevel s))] ∧
    (performMicro (.readData d) s).upc = s.upc + 1 ∧ (performMicro (.readData d) s).dlyPending = none ∧
    (performMicro (.readData d) s).sclDrv = s.sclDrv ∧ (performMicro (.readData d) s).sdaDrv = s.sdaDrv ∧
    (performMicro (.readData d) s).cfg = s.cfg ∧ (performMicro (.readData d) s).busy = s.busy ∧
    (performMicro (.readData d) s).cmdReg = s.cmdReg ∧ (performMicro (.readData d) s).phase = s.phase ∧
    (performMicro (.readData d) s).rspValid = s.rspValid ∧ (performMicro (.readData d) s).rspData = s.rspData ∧
    (performMicro (.readData d) s).inp.cmds = s.inp.cmds ∧ (performMicro (.readData d) s).inp.pins = s.inp.pins ∧
    (performMicro (.readData d) s).inp.sdaEnv = s.inp.sdaEnv.drop 1 ∧
    (∀ i, d = .shReg i → (performMicro (.readData d) s).ackReg = s.ackReg ∧
      (performMicro (.readData d) s).shReg =
        if sdaLine s (envLevel s) = .high then s.shReg ||| (0x80#8 >>> i) else s.shReg) ∧
    (d = .ackReg → (performMicro (.readData d) s).shReg = s.shReg ∧
      (performMicro (.readData d) s).ackReg = if sdaLine s (envLevel s) = .high then 1 else 0)

/-- R114: `ConfigOpenDrain()` writes `CFG`, `TRACE`, `UPC`, changes no drive register and takes no delay; R113:
`Delay(INIT)` asks the provider for the init delay, is the event `TI` and advances `UPC`. That `TI` is in the trace while
the delay is unanswered is the model's choice (log 21). The last clause ties the table `MicroOp.delay`, which durations
are counted with, to what each micro-operation asks for. -/
def Obligations.ConfigAndInitDelayEffect : Prop :=
  ∀ s : State, s.dlyPending = none →
    beginMicro .configOpenDrain s = { s with cfg := true, trace := s.trace ++ [.openDrain] } ∧
    beginMicro .delayInit s = { s with trace := s.trace ++ [.initDelay], dlyPending := some .init } ∧
    performMicro .configOpenDrain s = { s with cfg := true, trace := s.trace ++ [.openDrain], upc := s.upc + 1 } ∧
    MicroOp.configOpenDrain.delay = none ∧
    performMicro .delayInit s = { s with trace := s.trace ++ [.initDelay], upc := s.upc + 1 } ∧
    MicroOp.delayInit.delay = some .init ∧ ∀ m : MicroOp, (beginMicro m s).dlyPending = m.delay

/-- R65: consecutive pairs of the drive history of a command differ in at most one component. -/
def Obligations.OneLineChangesPerEvent : Prop :=
  ∀ (i : Instr) (s : State), admitted s i = true → ∃ t, exec i s = .next t ∧
    driveEnd (driveOf s) (newEvents s t) = driveOf t ∧
    ∀ (k : Nat) (p q : Drive), (driveHistory (driveOf s) (newEvents s t))[k]? = some p →
      (driveHistory (driveOf s) (newEvents s t))[k + 1]? = some q → p.1 = q.1 ∨ p.2 = q.2

/-- R118: the micro-operation at each index of each command. -/
def Obligations.MicroOperationTable : Prop :=
  seqOf .init = [.configOpenDrain, .writeClock .high, .writeData .high, .delayInit] ∧
  seqOf .start = [.writeClock .high, .writeData .high, .writeData .low, .writeClock .low] ∧
  seqOf .stop = [.writeClock .high, .writeData .low, .writeData .high] ∧
  (∀ (v : Byte) (i : Nat), i < 8 →
    (∃ m, (seqOf (.sendByte v))[3 * i]? = some m ∧
      ∀ s : State, s.shReg = v → performMicro m s = performMicro (.writeData (bitLevel v (7 - i))) s) ∧
    (seqOf (.sendByte v))[3 * i + 1]? = some (.writeClock .high) ∧
    (seqOf (.sendByte v))[3 * i + 2]? = some (.writeClock .low)) ∧
  (seqOf .receiveByte)[0]? = some (.writeData .high) ∧
  (∀ i : Nat, i < 8 →
    (seqOf .receiveByte)[1 + 3 * i]? = some (.writeClock .high) ∧
    (seqOf .receiveByte)[2 + 3 * i]? = some (.readData (.shReg i)) ∧
    (seqOf .receiveByte)[3 + 3 * i]? = some (.writeClock .low)) ∧
  seqOf .waitAck = [.writeClock .high, .writeClock .low] ∧
  (∀ b : Bit, seqOf (.sendAck b) = [.writeData (levelOfBit b), .writeClock .high, .writeClock .low]) ∧
  seqOf .receiveAck = [.writeData .high, .writeClock .high, .readData .ackReg, .writeClock .low]

/-- R275: the length and the duration of each command, the duration counted in delays, and which delay each
micro-operation takes. -/
def Obligations.CommandDurations : Prop :=
  ((∀ l, (MicroOp.writeClock l).delay = some .settle) ∧ (∀ l, (MicroOp.writeData l).delay = some .settle) ∧
    (∀ d, (MicroOp.readData d).delay = some .settle) ∧ MicroOp.configOpenDrain.delay = none ∧
    MicroOp.delayInit.delay = some .init) ∧
  (lenOf .init = 4 ∧ lenOf .start = 4 ∧ lenOf .stop = 3 ∧ (∀ v, lenOf (.sendByte v) = 24) ∧ lenOf .receiveByte = 25 ∧
    lenOf .waitAck = 2 ∧ (∀ b, lenOf (.sendAck b) = 3) ∧ lenOf .receiveAck = 4) ∧
  ∀ tS tI : Nat,
    duration tS tI .init = 2 * tS + tI ∧ duration tS tI .start = 4 * tS ∧ duration tS tI .stop = 3 * tS ∧
    (∀ v, duration tS tI (.sendByte v) = 24 * tS) ∧ duration tS tI .receiveByte = 25 * tS ∧
    duration tS tI .waitAck = 2 * tS ∧ (∀ b, duration tS tI (.sendAck b) = 3 * tS) ∧
    duration tS tI .receiveAck = 4 * tS

/-! ## The commands -/

/-- R131, with its frame. `init` completes in every state. -/
def Obligations.InitCommandResult : Prop :=
  encode .init = 0x000 ∧ (∀ arg : Byte, decode (0#3 ++ arg) = .init) ∧
  ∀ s : State, ∃ t, exec .init s = .next t ∧ t.cfg = true ∧ t.sclDrv = .high ∧ t.sdaDrv = .high ∧ t.phase = .idle ∧
    t.trace = s.trace ++ [.openDrain, .clock .high, .data .high, .initDelay, .response 0x00] ∧
    t.ackReg = s.ackReg ∧ t.inp.sdaEnv = s.inp.sdaEnv ∧ Answered s t 0x00

/-- R141, with its frame: from every prior line state. -/
def Obligations.StartCommandResult : Prop :=
  encode .start = 0x100 ∧ (∀ arg : Byte, decode (1#3 ++ arg) = .start) ∧
  ∀ s : State, s.cfg = true → ∃ t, exec .start s = .next t ∧ t.sclDrv = .low ∧ t.sdaDrv = .low ∧
    t.phase = .captured ∧
    t.trace = s.trace ++ [.clock .high, .data .high, .data .low, .clock .low, .response 0x00] ∧
    t.cfg = s.cfg ∧ t.ackReg = s.ackReg ∧ t.inp.sdaEnv = s.inp.sdaEnv ∧ Answered s t 0x00

/-- R145, with its frame: from every prior line state. -/
def Obligations.StopCommandResult : Prop :=
  encode .stop = 0x200 ∧ (∀ arg : Byte, decode (2#3 ++ arg) = .stop) ∧
  ∀ s : State, s.cfg = true → ∃ t, exec .stop s = .next t ∧ t.sclDrv = .high ∧ t.sdaDrv = .high ∧ t.phase = .idle ∧
    t.trace = s.trace ++ [.clock .high, .data .low, .data .high, .response 0x00] ∧
    t.cfg = s.cfg ∧ t.ackReg = s.ackReg ∧ t.inp.sdaEnv = s.inp.sdaEnv ∧ Answered s t 0x00

/-- R161, with its frame: every byte is sent bit 7 first, and Data stays at bit 0; while the command runs no
micro-operation of it changes `SHREG`. -/
def Obligations.SendByteCommandResult : Prop :=
  (∀ v : Byte, encode (.sendByte v) = 0x300 ||| v.setWidth 11) ∧
  (∀ v : Byte, decode (3#3 ++ v) = .sendByte v) ∧ (∀ v : Byte, lenOf (.sendByte v) = 24) ∧
  (∀ (k : Nat) (s : State), (performAll (sendByteSeq.take k) s).shReg = s.shReg) ∧
  ∀ (v : Byte) (s : State), s.cfg = true → ∃ t, exec (.sendByte v) s = .next t ∧
    t.trace = s.trace ++ sendByteEvents v ++ [.response 0x00] ∧
    t.sdaDrv = bitLevel v 0 ∧ t.sclDrv = .low ∧
    t.cfg = s.cfg ∧ t.phase = s.phase ∧ t.ackReg = s.ackReg ∧ t.inp.sdaEnv = s.inp.sdaEnv ∧ Answered s t 0x00

/-- R165, with its frame: whatever the eight samples are, the response is the byte they make, first sample bit 7;
`SHREG` holds that byte until the response. -/
def Obligations.ReceiveByteCommandResult : Prop :=
  encode .receiveByte = 0x400 ∧ (∀ arg : Byte, decode (4#3 ++ arg) = .receiveByte) ∧ lenOf .receiveByte = 25 ∧
  (∀ s : State, (performAll receiveByteSeq (receiveByteLoad s)).shReg = byteOfSamples (envLevels 8 s)) ∧
  ∀ s : State, s.cfg = true → ∃ t, exec .receiveByte s = .next t ∧
    t.trace = s.trace ++ receiveByteEvents (envLevels 8 s) ++ [.response (byteOfSamples (envLevels 8 s))] ∧
    t.sdaDrv = .high ∧ t.sclDrv = .low ∧
    t.cfg = s.cfg ∧ t.phase = s.phase ∧ t.ackReg = s.ackReg ∧ t.inp.sdaEnv = s.inp.sdaEnv.drop 8 ∧
    Answered s t (byteOfSamples (envLevels 8 s))

/-- R181, with its frame: Data is not touched. -/
def Obligations.WaitAckCommandResult : Prop :=
  encode .waitAck = 0x500 ∧ (∀ arg : Byte, decode (5#3 ++ arg) = .waitAck) ∧ lenOf .waitAck = 2 ∧
  ∀ s : State, s.cfg = true → ∃ t, exec .waitAck s = .next t ∧
    t.trace = s.trace ++ [.clock .high, .clock .low, .response 0x00] ∧ t.sclDrv = .low ∧ t.sdaDrv = s.sdaDrv ∧
    t.cfg = s.cfg ∧ t.phase = s.phase ∧ t.ackReg = s.ackReg ∧ t.inp.sdaEnv = s.inp.sdaEnv ∧ Answered s t 0x00

/-- R183, with its frame: 0 drives Data `LOW`, 1 releases it; Data is left there. -/
def Obligations.SendAckCommandResult : Prop :=
  (∀ b : Bit, encode (.sendAck b) = 0x600 ||| b.setWidth 11) ∧
  (∀ arg : Byte, decode (6#3 ++ arg) = .sendAck (arg.extractLsb' 0 1)) ∧ (∀ b : Bit, lenOf (.sendAck b) = 3) ∧
  ∀ (b : Bit) (s : State), s.cfg = true → ∃ t, exec (.sendAck b) s = .next t ∧
    t.sdaDrv = (if b = 0 then .low else .high) ∧
    t.trace = s.trace ++ [.data (if b = 0 then .low else .high), .clock .high, .clock .low, .response 0x00] ∧
    t.sclDrv = .low ∧ t.cfg = s.cfg ∧ t.phase = s.phase ∧ t.ackReg = s.ackReg ∧ t.inp.sdaEnv = s.inp.sdaEnv ∧
    Answered s t 0x00

/-- R186, with its frame: the sample is the environment's level, `LOW` answers 0x00 (ACK), `HIGH` answers 0x01
(NACK); `ACKREG` holds the sample as a bit until the response. -/
def Obligations.ReceiveAckCommandResult : Prop :=
  encode .receiveAck = 0x700 ∧ (∀ arg : Byte, decode (7#3 ++ arg) = .receiveAck) ∧ lenOf .receiveAck = 4 ∧
  (∀ s : State, (performAll receiveAckSeq s).ackReg = if envLevel s = .low then 0 else 1) ∧
  ∀ s : State, s.cfg = true → ∃ t, exec .receiveAck s = .next t ∧
    t.trace = s.trace ++ [.data .high, .clock .high, .read (envLevel s), .clock .low,
      .response (if envLevel s = .low then 0x00 else 0x01)] ∧
    t.sdaDrv = .high ∧ t.sclDrv = .low ∧ t.cfg = s.cfg ∧ t.phase = s.phase ∧
    t.inp.sdaEnv = s.inp.sdaEnv.drop 1 ∧ Answered s t (if envLevel s = .low then 0x00 else 0x01)

/-- R23: with `CFG = 0` every command but `init` is refused; with `CFG = 1` every command has its meaning, from every
value of the line state. -/
def Obligations.AdmissionByCfg : Prop :=
  (∀ (i : Instr) (s : State), s.cfg = false → i ≠ .init → exec i s = .refused .commandBeforeInit) ∧
  (∀ s : State, ∃ t, exec .init s = .next t) ∧
  (∀ (i : Instr) (s : State), s.cfg = true → ∃ t, exec i s = .next t)

/-- R204: the drive registers and the phase after each command, from any prior state, and after reset. -/
def Obligations.LineLevelsAfterCommand : Prop :=
  (State.reset.sclDrv = .high ∧ State.reset.sdaDrv = .high ∧ State.reset.phase = .uninit) ∧
  ∀ (i : Instr) (s : State), admitted s i = true → ∃ t, exec i s = .next t ∧
    t.sclDrv = sclAfter i ∧ t.sdaDrv = sdaAfter i s.sdaDrv ∧ t.phase = phaseAfter i s.phase

/-- R87: a command completes once, with one response, after one event per micro-operation. -/
def Obligations.OneResponsePerCommand : Prop :=
  ∀ (i : Instr) (s : State), admitted s i = true → ∃ t es, exec i s = .next t ∧
    t.trace = s.trace ++ es ++ [.response t.rspData] ∧ responses es = [] ∧ es.length = lenOf i ∧
    t.rspValid = true ∧ t.busy = false

/-- R132: the state after `init` does not depend on the state before, and a second `init` adds the same five events. -/
def Obligations.InitIdempotent : Prop :=
  ∀ s : State, ∃ t u, exec .init s = .next t ∧ exec .init t = .next u ∧
    t.cfg = true ∧ t.sclDrv = .high ∧ t.sdaDrv = .high ∧ t.phase = .idle ∧
    u.cfg = t.cfg ∧ driveOf u = driveOf t ∧ u.phase = t.phase ∧ newEvents t u = newEvents s t ∧
    ∀ d ∈ driveHistory (driveOf t) (newEvents t u), d = driveOf t

/-- R166: a sample of `LOW` leaves the accumulator as it is, a sample of `HIGH` sets bit `7 - i` and no other; a slave that drives back `v`, most significant bit first, is received as exactly `v`; `s_i` is bit `7 - i` of
the result whatever the samples are. -/
def Obligations.ReceiveReturnsSlaveByte : Prop :=
  (∀ (acc : Byte) (i : Nat), orSample acc i .low = acc) ∧
  (∀ (acc : Byte) (i k : Nat), i < 8 → k < 8 →
    (orSample acc i .high).getLsbD k = if k = 7 - i then true else acc.getLsbD k) ∧
  (∀ (v : Byte) (rest : List Level) (s : State), s.cfg = true → s.inp.sdaEnv = samplesOfByte v ++ rest →
    ∃ t, exec .receiveByte s = .next t ∧ t.rspData = v ∧ t.inp.sdaEnv = rest) ∧
  (∀ (s : State) (i : Nat), s.cfg = true → i < 8 → ∃ t, exec .receiveByte s = .next t ∧
    (envLevels 8 s)[i]? = some (bitLevel t.rspData (7 - i)))

/-- R162: entered with Clock `LOW`, `sendByte v` puts bits 7 to 0 of `v` on the Data drive, one per clock pulse, and
does not write Data while Clock is `HIGH`. -/
def Obligations.SendPutsBitsOnLine : Prop :=
  ∀ (v : Byte) (s : State), s.cfg = true → s.sclDrv = .low → ∃ t, exec (.sendByte v) s = .next t ∧
    clockedLevels (driveOf s) (newEvents s t) = samplesOfByte v ∧ dataStable (driveOf s) (newEvents s t) = true

/-- R68: the five byte and acknowledge commands, entered with Clock `LOW`, never write Data while Clock is `HIGH`; and
entered with Clock `HIGH`, those that write Data do. -/
def Obligations.DataStableInTransferCommands : Prop :=
  ∀ (i : Instr) (s : State), s.cfg = true → i ≠ .init → i ≠ .start → i ≠ .stop → ∃ t, exec i s = .next t ∧
    (s.sclDrv = .low → dataStable (driveOf s) (newEvents s t) = true) ∧
    (s.sclDrv = .high → i ≠ .waitAck → dataStable (driveOf s) (newEvents s t) = false)

/-- R116: no command reads Data while the block itself drives it `LOW`. -/
def Obligations.ReadsOnlyWhileReleased : Prop :=
  ∀ (i : Instr) (s : State), admitted s i = true → ∃ t, exec i s = .next t ∧
    readsReleased (driveOf s) (newEvents s t) = true

/-- R143 and the D-SS table: `start` makes one master START edge, and one master STOP edge before it when Data is driven
`LOW` at entry: the STOP edge is among its first two events, the START edge is not. -/
def Obligations.StartEdges : Prop :=
  ∀ s : State, s.cfg = true → ∃ t, exec .start s = .next t ∧
    masterStarts (driveOf s) (newEvents s t) = 1 ∧
    masterStops (driveOf s) (newEvents s t) = (if s.sdaDrv = .low then 1 else 0) ∧
    masterStops (driveOf s) ((newEvents s t).take 2) = (if s.sdaDrv = .low then 1 else 0) ∧
    masterStarts (driveOf s) ((newEvents s t).take 2) = 0

/-- R147, R148 and the D-SS table: `stop` makes one master STOP edge, and a master START edge before it when Data is
released at entry: the START edge is among its first two events, the STOP edge is not. -/
def Obligations.StopEdges : Prop :=
  ∀ s : State, s.cfg = true → ∃ t, exec .stop s = .next t ∧
    masterStops (driveOf s) (newEvents s t) = 1 ∧
    masterStarts (driveOf s) (newEvents s t) = (if s.sdaDrv = .high then 1 else 0) ∧
    masterStarts (driveOf s) ((newEvents s t).take 2) = (if s.sdaDrv = .high then 1 else 0) ∧
    masterStops (driveOf s) ((newEvents s t).take 2) = 0

/-- R133: `init` makes no master START edge, and a master STOP edge exactly when Data is driven `LOW` at entry. -/
def Obligations.InitEdges : Prop :=
  ∀ s : State, ∃ t, exec .init s = .next t ∧ masterStarts (driveOf s) (newEvents s t) = 0 ∧
    masterStops (driveOf s) (newEvents s t) = if s.sdaDrv = .low then 1 else 0

/-- R149: `start` then `stop` from idle. -/
def Obligations.StartThenStopFromIdle : Prop :=
  ∀ s : State, s.cfg = true → driveOf s = (.high, .high) → ∃ t u, exec .start s = .next t ∧ exec .stop t = .next u ∧
    driveOf u = (.high, .high) ∧
    newEvents s u = [.clock .high, .data .high, .data .low, .clock .low, .response 0x00,
      .clock .high, .data .low, .data .high, .response 0x00] ∧
    driveHistory (driveOf s) ((newEvents s u).filter fun e => e ≠ .response 0x00) =
      [(.high, .high), (.high, .high), (.high, .high), (.high, .low), (.low, .low), (.high, .low), (.high, .low),
        (.high, .high)] ∧
    masterStarts (driveOf s) (newEvents s u) = 1 ∧ masterStops (driveOf s) (newEvents s u) = 1

/-- R188: after a NACK the block is in the same state as after an ACK except for the response value (and the trace, a
ghost, which holds the sample and the response). The free values left afterwards are the same in both runs (log 5,
log 6). -/
def Obligations.NackLeavesStateOfAck : Prop :=
  ∀ (s : State) (rest : List Level), s.cfg = true → ∃ t u,
    exec .receiveAck { s with inp := { s.inp with sdaEnv := .low :: rest } } = .next t ∧
    exec .receiveAck { s with inp := { s.inp with sdaEnv := .high :: rest } } = .next u ∧
    t.rspData = 0x00 ∧ u.rspData = 0x01 ∧ u = { t with rspData := u.rspData, trace := u.trace } ∧
    newEvents s t = [.data .high, .clock .high, .read .low, .clock .low, .response 0x00] ∧
    newEvents s u = [.data .high, .clock .high, .read .high, .clock .low, .response 0x01]

/-- R208: what a command does to the pins, event by event, does not depend on what is sampled, on the byte buffer or on
any other state but the admission. -/
def Obligations.PathIndependentOfState : Prop :=
  ∀ (i : Instr) (s s' : State), admitted s i = true → admitted s' i = true → ∃ t t',
    exec i s = .next t ∧ exec i s' = .next t' ∧
    (newEvents s t).map eventShape = (newEvents s' t').map eventShape

/-- R26, R27, R36, U2: a command reads none of the registers whose content is unspecified when it is accepted: what they
held makes no difference, except that a command that does not write `ACKREG` leaves it. The free values left afterwards
are the same in both runs (log 5, log 6). -/
def Obligations.UnspecifiedRegistersNotRead : Prop :=
  ∀ (s : State) (w : CmdWord) (ws : List CmdWord) (c : CmdWord) (h : Byte) (a : Bit) (r : Byte) (u : BitVec 5),
    Ready s → s.inp.cmds = w :: ws → admitted s (decode w) = true → ∃ t t',
      step s = .next t ∧ step { s with cmdReg := c, shReg := h, ackReg := a, rspData := r, upc := u } = .next t' ∧
      t' = { t with ackReg := t'.ackReg } ∧ (decode w = .receiveAck → t' = t)

/-! ## The step -/

/-- The step runs the command whose word the host presents: `CMDREG` is loaded (R86), the host's word is used up, the
response of the command before is over (log 7). -/
def Obligations.StepRunsPresentedCommand : Prop :=
  ∀ (s : State) (w : CmdWord) (ws : List CmdWord), Ready s → s.inp.cmds = w :: ws →
    step s = exec (decode w) { s with cmdReg := w, rspValid := false, inp := { s.inp with cmds := ws } }

/-- R85, R87, R251: with no command accepted the block waits, and nothing changes but that a response lasts one step (log
7). A command is accepted only with `cmd_valid = 1`: at the micro grain (log 1) a step with `cmd_valid = 0`, or with no
word presented, uses up its pins and leaves the host's words. -/
def Obligations.IdleBlockWaits : Prop :=
  (∀ s : State, Ready s → s.inp.cmds = [] → step s = .next { s with rspValid := false }) ∧
  ∀ (s : State) (p : Pins) (ps : List Pins), s.busy = false → s.inp.pins = p :: ps → p.rst = false →
    (p.cmdValid = false ∨ s.inp.cmds = []) →
    step s = .next { s with rspValid := false, inp := { s.inp with pins := ps } }

/-- R86: what accept writes, seen at the micro grain (log 1): no line changes, and from there to completion the command
port is ignored. -/
def Obligations.AcceptLoadsSequencer : Prop :=
  ∀ (s : State) (p : Pins) (ps : List Pins) (w : CmdWord) (ws : List CmdWord),
    s.inp.pins = p :: ps → p.rst = false → p.cmdValid = true → s.busy = false → s.inp.cmds = w :: ws →
    admitted s (decode w) = true → ∃ t, step s = .next t ∧ t.cmdReg = w ∧ t.busy = true ∧ t.upc = 0 ∧
      (opField w = 3 → t.shReg = argField w) ∧ (opField w = 4 → t.shReg = 0x00) ∧
      (opField w ≠ 3 → opField w ≠ 4 → t.shReg = s.shReg) ∧
      t.sclDrv = s.sclDrv ∧ t.sdaDrv = s.sdaDrv ∧ t.trace = s.trace ∧ t.cfg = s.cfg ∧ t.ackReg = s.ackReg ∧
      t.phase = s.phase ∧ t.dlyPending = s.dlyPending ∧ t.inp.cmds = ws ∧ t.inp.pins = ps ∧
      t.inp.sdaEnv = s.inp.sdaEnv

/-- R24, R86: while `BUSY = 1` the command port accepts nothing and `CMDREG` does not change. -/
def Obligations.BusyBlockIgnoresCommandPort : Prop :=
  ∀ s : State, s.busy = true → NoReset s → ∃ t, step s = .next t ∧ t.inp.cmds = s.inp.cmds ∧ t.cmdReg = s.cmdReg

/-- R28, R87, R113, R171, R233: a micro-step of a busy block that is not reset and whose delay is answered (`dly_done = 1`,
or no pins left, or the micro-operation that takes no delay) ends its micro-operation. One that begins in this step does
so once: one event and its drive. One that was waiting adds no event and moves no line. `UPC` advances by exactly 1 until
the command's length is reached; then the command completes with its response. The micro grain is log 1, the handshake
log 8. -/
def Obligations.MicroStepAdvancesOrCompletes : Prop :=
  ∀ (s : State) (m : MicroOp), Inv s → s.busy = true → (seqOf (decode s.cmdReg))[s.upc.toNat]? = some m →
    (s.inp.pins = [] ∨
      ∃ p ps, s.inp.pins = p :: ps ∧ p.rst = false ∧ (p.dlyDone = true ∨ m = .configOpenDrain)) →
    ∃ t es, step s = .next t ∧ t.inp.pins = s.inp.pins.tail ∧ t.inp.cmds = s.inp.cmds ∧ t.dlyPending = none ∧
      responses es = [] ∧
      (s.dlyPending = none → es.length = 1 ∧ (performMicro m s).trace = s.trace ++ es ∧
        driveOf t = driveOf (performMicro m s)) ∧
      (s.dlyPending.isSome = true → es = [] ∧ driveOf t = driveOf s) ∧
      (s.upc.toNat + 1 < lenOf (decode s.cmdReg) →
        t.busy = true ∧ t.upc.toNat = s.upc.toNat + 1 ∧ t.trace = s.trace ++ es) ∧
      (s.upc.toNat + 1 = lenOf (decode s.cmdReg) →
        t.busy = false ∧ t.rspValid = true ∧ t.trace = s.trace ++ es ++ [.response t.rspData])

/-- R113, R233: while the delay provider does not answer, the block does nothing, for as long as that lasts. How
the handshake is held is the model's choice (log 8), and so is the micro grain (log 1). -/
def Obligations.UnansweredDelayHoldsBlock : Prop :=
  ∀ (waits rest : List Pins) (s : State), Inv s → s.busy = true → s.dlyPending.isSome = true →
    (∀ p ∈ waits, p.rst = false ∧ p.dlyDone = false) → s.inp.pins = waits ++ rest →
    Host.Core.run core waits.length s = .next { s with inp := { s.inp with pins := rest } }

/-- R28, R117: a command run one micro-operation at a time (an accepting step, then `LEN(op)` micro-steps with every
delay answered) ends exactly as the command-grain step, refusals included. The two grains are the model's choice (log
1). -/
def Obligations.MicroStepsComposeCommand : Prop :=
  ∀ (s : State) (p : Pins) (w : CmdWord) (ws : List CmdWord), Ready s → s.dlyPending = none → s.inp.cmds = w :: ws →
    p.rst = false → p.cmdValid = true →
    Host.Core.run core (lenOf (decode w) + 1) { s with inp := { s.inp with pins := [p] } } = step s

/-- R22: `CFG` is 0 after reset, set by no command but `init`, and cleared only by reset. -/
def Obligations.CfgChangesOnlySo : Prop :=
  State.reset.cfg = false ∧
  ∀ s t : State, step s = .next t →
    (s.cfg = true → t.cfg = false → ¬ NoReset s) ∧ (s.cfg = false → t.cfg = true → decode t.cmdReg = .init)

/-- R33: what changes `PHASE`: reset sets `UNINIT`, the completion of `init`, `start` and `stop` sets what R33 says, and
nothing else changes it. -/
def Obligations.PhaseChangesOnlySo : Prop :=
  State.reset.phase = .uninit ∧
  (∀ s : State, ∃ t, exec .init s = .next t ∧ t.phase = .idle) ∧
  (∀ s : State, s.cfg = true → ∃ t, exec .start s = .next t ∧ t.phase = .captured) ∧
  (∀ s : State, s.cfg = true → ∃ t, exec .stop s = .next t ∧ t.phase = .idle) ∧
  ∀ s t : State, step s = .next t → t.phase ≠ s.phase →
    (¬ NoReset s ∧ t.phase = .uninit) ∨
    (t.busy = false ∧ t.rspValid = true ∧
      ((decode t.cmdReg = .init ∧ t.phase = .idle) ∨ (decode t.cmdReg = .start ∧ t.phase = .captured) ∨
        (decode t.cmdReg = .stop ∧ t.phase = .idle)))

/-- R32: the trace only grows, but for reset, which empties it. -/
def Obligations.TraceOnlyGrows : Prop :=
  ∀ s t : State, step s = .next t → (∃ es, t.trace = s.trace ++ es) ∨ (¬ NoReset s ∧ t.trace = [])

/-- R220, R23: no step ends in a fault, and a step is refused only for a command other than `init` accepted while
`CFG = 0`. -/
def Obligations.NoFaultAndRefusalOnlyBeforeInit : Prop :=
  (∀ (s : State) (r : Fault), step s ≠ .fault r) ∧
  (∀ (s : State) (r : Refusal), step s = .refused r → r = .commandBeforeInit ∧ s.cfg = false ∧ s.busy = false ∧
    ∃ w ws, s.inp.cmds = w :: ws ∧ decode w ≠ .init)

/-- The invariant of the machine holds at reset. -/
def Obligations.InvariantAtReset : Prop := Inv State.reset

/-- R22, R23, R24, R28, R86, R113, R116, R161: every step from every state that meets the invariant, reset and waiting
for a delay included, keeps it. -/
def Obligations.InvariantKeptByStep : Prop :=
  ∀ s t : State, Inv s → step s = .next t → Inv t

/-! ## Transactions -/

/-- R201: the caller's state machine accepts exactly the sequences of the grammar. -/
def Obligations.GrammarRecognised : Prop :=
  ∀ is : List Instr, wellFormedSession is = true ↔ ∃ xs, is = sessionCommands xs

/-- R205: the units of a transaction, run by the machine from a state with Clock `LOW`, write Data only while Clock is
`LOW`, and leave Clock `LOW` and the phase as it was. -/
def Obligations.UnitsKeepDataStable : Prop :=
  ∀ (us : List TransferUnit) (s : State), Ready s → s.cfg = true → s.sclDrv = .low →
    ∃ t, Host.Core.run core (unitsCommands us).length (withCommands (unitsCommands us) s) = .next t ∧
      t.sclDrv = .low ∧ t.phase = s.phase ∧ t.cfg = true ∧ t.busy = false ∧ t.inp.cmds = [] ∧
      (∃ es, t.trace = s.trace ++ es ∧ dataStable (driveOf s) es = true ∧ masterStarts (driveOf s) es = 0 ∧
        masterStops (driveOf s) es = 0 ∧ (responses es).length = (unitsCommands us).length)

/-- R34, R201, R203, R205: every session of the grammar runs to its end from every state between commands, one response
a command; both lines end released and the phase idle; and on the wire there is one master STOP edge for each
transaction, beside the one the first `init` makes when Data is driven `LOW` at entry. -/
def Obligations.SessionsEndBusIdle : Prop :=
  ∀ (xs : List SessionItem) (s : State), Ready s →
    ∃ t, Host.Core.run core (sessionCommands xs).length (withCommands (sessionCommands xs) s) = .next t ∧
      t.sclDrv = .high ∧ t.sdaDrv = .high ∧ t.phase = .idle ∧ t.cfg = true ∧ t.busy = false ∧ t.inp.cmds = [] ∧
      (∃ es, t.trace = s.trace ++ es ∧ (responses es).length = (sessionCommands xs).length ∧
        masterStops (driveOf s) es = transactionCount xs + (if s.sdaDrv = .low then 1 else 0))

/-! ## The delay ports, and the bus at a reset -/

/-- R113, R233: the delay ports. `dly_req` is 1 for exactly the micro-step that begins a micro-operation with a delay, and
`dly_kind` is then 1 for `Delay(INIT)` and 0 for a pin operation; if that step is not answered the micro-operation has
begun, the request is outstanding after the step and `dly_req` is 0 again. Between commands and while a request is outstanding it is 0. What the ports are in a
state, whatever the pins are, is log 8 and log 24, the micro grain log 1. -/
def Obligations.DelayRequestPulse : Prop :=
  (∀ s : State, s.busy = false → (outPorts s).dlyReq = false) ∧
  (∀ s : State, s.dlyPending.isSome = true → (outPorts s).dlyReq = false) ∧
  ∀ (s : State) (m : MicroOp), s.busy = true → s.dlyPending = none →
    (seqOf (decode s.cmdReg))[s.upc.toNat]? = some m →
    ((outPorts s).dlyReq = true ↔ m ≠ .configOpenDrain) ∧
    (m = .delayInit → (outPorts s).dlyKind = 1) ∧
    (m ≠ .delayInit → m ≠ .configOpenDrain → (outPorts s).dlyKind = 0) ∧
    ∀ (p : Pins) (ps : List Pins), s.inp.pins = p :: ps → p.rst = false → p.dlyDone = false → m ≠ .configOpenDrain →
      ∃ t, step s = .next t ∧ t = beginMicro m { s with inp := { s.inp with pins := ps } } ∧
        t.dlyPending = some (if m = .delayInit then .init else .settle) ∧
        (outPorts t).dlyReq = false ∧ t.busy = true ∧ t.upc = s.upc

/-- R253: a reset releases both lines in one step. Data held `LOW` with Clock `HIGH` at its entry makes one master STOP
edge, a STOP condition on the wire if `SDA_ENV = HIGH`; Data released makes none; with both held `LOW` nothing is claimed
(log 22). A reset makes no START edge. -/
def Obligations.ResetStopEdge : Prop :=
  ∀ (s : State) (p : Pins) (ps : List Pins), s.inp.pins = p :: ps → p.rst = true →
    ∃ t, step s = .next t ∧ driveOf t = (.high, .high) ∧ newEvents s t = [] ∧ stepMasterStarts s t = 0 ∧
      (driveOf s = (.high, .low) → stepMasterStops s t = 1 ∧
        isWireResetStop (driveOf s) s.freeIdx .high = true ∧ isWireResetStop (driveOf s) s.freeIdx .low = false) ∧
      (s.sdaDrv = .high → stepMasterStops s t = 0)
end

