-- ==== Sys2Proof/Laws/Operands.lean ====
section
/-! SUPPORT. The arithmetic of the block, proved once: levels as bits, the bit test of the send path and the
accumulator of the receive path (spec/43_byte_transfer.md R164, R166). -/

namespace Sys2Proof.Machine

@[simp] theorem levelOfBit_bitOfLevel (l : Level) : levelOfBit (bitOfLevel l) = l := by cases l <;> rfl

theorem bitOfLevel_levelOfBit : ∀ b : Bit, bitOfLevel (levelOfBit b) = b := by decide

@[simp] theorem wiredAnd_low (l : Level) : wiredAnd .low l = .low := by cases l <;> rfl

@[simp] theorem wiredAnd_high (l : Level) : wiredAnd .high l = l := by cases l <;> rfl

theorem wiredAnd_comm (a b : Level) : wiredAnd a b = wiredAnd b a := by cases a <;> cases b <;> rfl

/-- With Data released, the line is at the environment's level (R116). -/
theorem sdaLine_released (s : State) (env : Level) (h : s.sdaDrv = .high) : sdaLine s env = env := by
  simp [sdaLine, h]

/-- The mask `0x80 >> i` is the byte with only bit `7 - i` set (R11). -/
theorem bitMask_eq_twoPow (i : Nat) (h : i < 8) : bitMask i = BitVec.twoPow 8 (7 - i) := by
  have : i = 0 ∨ i = 1 ∨ i = 2 ∨ i = 3 ∨ i = 4 ∨ i = 5 ∨ i = 6 ∨ i = 7 := by omega
  rcases this with h | h | h | h | h | h | h | h <;> subst h <;> decide

/-- The bit test of the send path finds bit `7 - i` (R164). -/
theorem sendLevel_eq_bitLevel (v : Byte) (i : Nat) (h : i < 8) : sendLevel v i = bitLevel v (7 - i) := by
  have hk : 7 - i < 8 := by omega
  unfold sendLevel bitLevel
  rw [bitMask_eq_twoPow i h, BitVec.and_twoPow]
  cases v.getLsbD (7 - i)
  · simp
  · have : BitVec.twoPow 8 (7 - i) ≠ 0#8 := by
      intro hz
      have := congrArg (fun x => BitVec.getLsbD x (7 - i)) hz
      simp [hk] at this
    simp [this]

/-- Eight samples ORed into an accumulator that begins at zero are the byte whose bit 7 is the first sample (R166). -/
theorem orSamples_eq_byteOfSamples : ∀ l0 l1 l2 l3 l4 l5 l6 l7 : Level,
    orSample (orSample (orSample (orSample (orSample (orSample (orSample (orSample 0 0 l0) 1 l1) 2 l2) 3 l3) 4 l4)
      5 l5) 6 l6) 7 l7 = byteOfSamples [l0, l1, l2, l3, l4, l5, l6, l7] := by
  intro l0 l1 l2 l3 l4 l5 l6 l7
  cases l0 <;> cases l1 <;> cases l2 <;> cases l3 <;> cases l4 <;> cases l5 <;> cases l6 <;> cases l7 <;> rfl

end Sys2Proof.Machine
end

