-- ==== Sys2Proof/Laws/State.lean ====
section
/-! SUPPORT. The projections of every elementary update of State: one lemma per field per update, each true by rfl. -/

namespace Sys2Proof.Machine

variable (s : State)

/-! emit -/

@[simp] theorem emit_sclDrv (e : Event) : (emit e s).sclDrv = s.sclDrv := rfl
@[simp] theorem emit_sdaDrv (e : Event) : (emit e s).sdaDrv = s.sdaDrv := rfl
@[simp] theorem emit_cfg (e : Event) : (emit e s).cfg = s.cfg := rfl
@[simp] theorem emit_busy (e : Event) : (emit e s).busy = s.busy := rfl
@[simp] theorem emit_cmdReg (e : Event) : (emit e s).cmdReg = s.cmdReg := rfl
@[simp] theorem emit_shReg (e : Event) : (emit e s).shReg = s.shReg := rfl
@[simp] theorem emit_ackReg (e : Event) : (emit e s).ackReg = s.ackReg := rfl
@[simp] theorem emit_upc (e : Event) : (emit e s).upc = s.upc := rfl
@[simp] theorem emit_rspValid (e : Event) : (emit e s).rspValid = s.rspValid := rfl
@[simp] theorem emit_rspData (e : Event) : (emit e s).rspData = s.rspData := rfl
@[simp] theorem emit_dlyPending (e : Event) : (emit e s).dlyPending = s.dlyPending := rfl
@[simp] theorem emit_trace (e : Event) : (emit e s).trace = s.trace ++ [e] := rfl
@[simp] theorem emit_phase (e : Event) : (emit e s).phase = s.phase := rfl
@[simp] theorem emit_inp (e : Event) : (emit e s).inp = s.inp := rfl
@[simp] theorem emit_freeIdx (e : Event) : (emit e s).freeIdx = s.freeIdx := rfl

/-! setScl -/

@[simp] theorem setScl_sclDrv (l : Level) : (setScl l s).sclDrv = l := rfl
@[simp] theorem setScl_sdaDrv (l : Level) : (setScl l s).sdaDrv = s.sdaDrv := rfl
@[simp] theorem setScl_cfg (l : Level) : (setScl l s).cfg = s.cfg := rfl
@[simp] theorem setScl_busy (l : Level) : (setScl l s).busy = s.busy := rfl
@[simp] theorem setScl_cmdReg (l : Level) : (setScl l s).cmdReg = s.cmdReg := rfl
@[simp] theorem setScl_shReg (l : Level) : (setScl l s).shReg = s.shReg := rfl
@[simp] theorem setScl_ackReg (l : Level) : (setScl l s).ackReg = s.ackReg := rfl
@[simp] theorem setScl_upc (l : Level) : (setScl l s).upc = s.upc := rfl
@[simp] theorem setScl_rspValid (l : Level) : (setScl l s).rspValid = s.rspValid := rfl
@[simp] theorem setScl_rspData (l : Level) : (setScl l s).rspData = s.rspData := rfl
@[simp] theorem setScl_dlyPending (l : Level) : (setScl l s).dlyPending = s.dlyPending := rfl
@[simp] theorem setScl_trace (l : Level) : (setScl l s).trace = s.trace := rfl
@[simp] theorem setScl_phase (l : Level) : (setScl l s).phase = s.phase := rfl
@[simp] theorem setScl_inp (l : Level) : (setScl l s).inp = s.inp := rfl
@[simp] theorem setScl_freeIdx (l : Level) : (setScl l s).freeIdx = s.freeIdx := rfl

/-! setSda -/

@[simp] theorem setSda_sclDrv (l : Level) : (setSda l s).sclDrv = s.sclDrv := rfl
@[simp] theorem setSda_sdaDrv (l : Level) : (setSda l s).sdaDrv = l := rfl
@[simp] theorem setSda_cfg (l : Level) : (setSda l s).cfg = s.cfg := rfl
@[simp] theorem setSda_busy (l : Level) : (setSda l s).busy = s.busy := rfl
@[simp] theorem setSda_cmdReg (l : Level) : (setSda l s).cmdReg = s.cmdReg := rfl
@[simp] theorem setSda_shReg (l : Level) : (setSda l s).shReg = s.shReg := rfl
@[simp] theorem setSda_ackReg (l : Level) : (setSda l s).ackReg = s.ackReg := rfl
@[simp] theorem setSda_upc (l : Level) : (setSda l s).upc = s.upc := rfl
@[simp] theorem setSda_rspValid (l : Level) : (setSda l s).rspValid = s.rspValid := rfl
@[simp] theorem setSda_rspData (l : Level) : (setSda l s).rspData = s.rspData := rfl
@[simp] theorem setSda_dlyPending (l : Level) : (setSda l s).dlyPending = s.dlyPending := rfl
@[simp] theorem setSda_trace (l : Level) : (setSda l s).trace = s.trace := rfl
@[simp] theorem setSda_phase (l : Level) : (setSda l s).phase = s.phase := rfl
@[simp] theorem setSda_inp (l : Level) : (setSda l s).inp = s.inp := rfl
@[simp] theorem setSda_freeIdx (l : Level) : (setSda l s).freeIdx = s.freeIdx := rfl

/-! setCfg -/

@[simp] theorem setCfg_sclDrv : (setCfg s).sclDrv = s.sclDrv := rfl
@[simp] theorem setCfg_sdaDrv : (setCfg s).sdaDrv = s.sdaDrv := rfl
@[simp] theorem setCfg_cfg : (setCfg s).cfg = true := rfl
@[simp] theorem setCfg_busy : (setCfg s).busy = s.busy := rfl
@[simp] theorem setCfg_cmdReg : (setCfg s).cmdReg = s.cmdReg := rfl
@[simp] theorem setCfg_shReg : (setCfg s).shReg = s.shReg := rfl
@[simp] theorem setCfg_ackReg : (setCfg s).ackReg = s.ackReg := rfl
@[simp] theorem setCfg_upc : (setCfg s).upc = s.upc := rfl
@[simp] theorem setCfg_rspValid : (setCfg s).rspValid = s.rspValid := rfl
@[simp] theorem setCfg_rspData : (setCfg s).rspData = s.rspData := rfl
@[simp] theorem setCfg_dlyPending : (setCfg s).dlyPending = s.dlyPending := rfl
@[simp] theorem setCfg_trace : (setCfg s).trace = s.trace := rfl
@[simp] theorem setCfg_phase : (setCfg s).phase = s.phase := rfl
@[simp] theorem setCfg_inp : (setCfg s).inp = s.inp := rfl
@[simp] theorem setCfg_freeIdx : (setCfg s).freeIdx = s.freeIdx := rfl

/-! setShReg -/

@[simp] theorem setShReg_sclDrv (v : Byte) : (setShReg v s).sclDrv = s.sclDrv := rfl
@[simp] theorem setShReg_sdaDrv (v : Byte) : (setShReg v s).sdaDrv = s.sdaDrv := rfl
@[simp] theorem setShReg_cfg (v : Byte) : (setShReg v s).cfg = s.cfg := rfl
@[simp] theorem setShReg_busy (v : Byte) : (setShReg v s).busy = s.busy := rfl
@[simp] theorem setShReg_cmdReg (v : Byte) : (setShReg v s).cmdReg = s.cmdReg := rfl
@[simp] theorem setShReg_shReg (v : Byte) : (setShReg v s).shReg = v := rfl
@[simp] theorem setShReg_ackReg (v : Byte) : (setShReg v s).ackReg = s.ackReg := rfl
@[simp] theorem setShReg_upc (v : Byte) : (setShReg v s).upc = s.upc := rfl
@[simp] theorem setShReg_rspValid (v : Byte) : (setShReg v s).rspValid = s.rspValid := rfl
@[simp] theorem setShReg_rspData (v : Byte) : (setShReg v s).rspData = s.rspData := rfl
@[simp] theorem setShReg_dlyPending (v : Byte) : (setShReg v s).dlyPending = s.dlyPending := rfl
@[simp] theorem setShReg_trace (v : Byte) : (setShReg v s).trace = s.trace := rfl
@[simp] theorem setShReg_phase (v : Byte) : (setShReg v s).phase = s.phase := rfl
@[simp] theorem setShReg_inp (v : Byte) : (setShReg v s).inp = s.inp := rfl
@[simp] theorem setShReg_freeIdx (v : Byte) : (setShReg v s).freeIdx = s.freeIdx := rfl

/-! setAckReg -/

@[simp] theorem setAckReg_sclDrv (b : Bit) : (setAckReg b s).sclDrv = s.sclDrv := rfl
@[simp] theorem setAckReg_sdaDrv (b : Bit) : (setAckReg b s).sdaDrv = s.sdaDrv := rfl
@[simp] theorem setAckReg_cfg (b : Bit) : (setAckReg b s).cfg = s.cfg := rfl
@[simp] theorem setAckReg_busy (b : Bit) : (setAckReg b s).busy = s.busy := rfl
@[simp] theorem setAckReg_cmdReg (b : Bit) : (setAckReg b s).cmdReg = s.cmdReg := rfl
@[simp] theorem setAckReg_shReg (b : Bit) : (setAckReg b s).shReg = s.shReg := rfl
@[simp] theorem setAckReg_ackReg (b : Bit) : (setAckReg b s).ackReg = b := rfl
@[simp] theorem setAckReg_upc (b : Bit) : (setAckReg b s).upc = s.upc := rfl
@[simp] theorem setAckReg_rspValid (b : Bit) : (setAckReg b s).rspValid = s.rspValid := rfl
@[simp] theorem setAckReg_rspData (b : Bit) : (setAckReg b s).rspData = s.rspData := rfl
@[simp] theorem setAckReg_dlyPending (b : Bit) : (setAckReg b s).dlyPending = s.dlyPending := rfl
@[simp] theorem setAckReg_trace (b : Bit) : (setAckReg b s).trace = s.trace := rfl
@[simp] theorem setAckReg_phase (b : Bit) : (setAckReg b s).phase = s.phase := rfl
@[simp] theorem setAckReg_inp (b : Bit) : (setAckReg b s).inp = s.inp := rfl
@[simp] theorem setAckReg_freeIdx (b : Bit) : (setAckReg b s).freeIdx = s.freeIdx := rfl

/-! setPhase -/

@[simp] theorem setPhase_sclDrv (p : Phase) : (setPhase p s).sclDrv = s.sclDrv := rfl
@[simp] theorem setPhase_sdaDrv (p : Phase) : (setPhase p s).sdaDrv = s.sdaDrv := rfl
@[simp] theorem setPhase_cfg (p : Phase) : (setPhase p s).cfg = s.cfg := rfl
@[simp] theorem setPhase_busy (p : Phase) : (setPhase p s).busy = s.busy := rfl
@[simp] theorem setPhase_cmdReg (p : Phase) : (setPhase p s).cmdReg = s.cmdReg := rfl
@[simp] theorem setPhase_shReg (p : Phase) : (setPhase p s).shReg = s.shReg := rfl
@[simp] theorem setPhase_ackReg (p : Phase) : (setPhase p s).ackReg = s.ackReg := rfl
@[simp] theorem setPhase_upc (p : Phase) : (setPhase p s).upc = s.upc := rfl
@[simp] theorem setPhase_rspValid (p : Phase) : (setPhase p s).rspValid = s.rspValid := rfl
@[simp] theorem setPhase_rspData (p : Phase) : (setPhase p s).rspData = s.rspData := rfl
@[simp] theorem setPhase_dlyPending (p : Phase) : (setPhase p s).dlyPending = s.dlyPending := rfl
@[simp] theorem setPhase_trace (p : Phase) : (setPhase p s).trace = s.trace := rfl
@[simp] theorem setPhase_phase (p : Phase) : (setPhase p s).phase = p := rfl
@[simp] theorem setPhase_inp (p : Phase) : (setPhase p s).inp = s.inp := rfl
@[simp] theorem setPhase_freeIdx (p : Phase) : (setPhase p s).freeIdx = s.freeIdx := rfl

/-! requestDelay -/

@[simp] theorem requestDelay_sclDrv (k : DelayKind) : (requestDelay k s).sclDrv = s.sclDrv := rfl
@[simp] theorem requestDelay_sdaDrv (k : DelayKind) : (requestDelay k s).sdaDrv = s.sdaDrv := rfl
@[simp] theorem requestDelay_cfg (k : DelayKind) : (requestDelay k s).cfg = s.cfg := rfl
@[simp] theorem requestDelay_busy (k : DelayKind) : (requestDelay k s).busy = s.busy := rfl
@[simp] theorem requestDelay_cmdReg (k : DelayKind) : (requestDelay k s).cmdReg = s.cmdReg := rfl
@[simp] theorem requestDelay_shReg (k : DelayKind) : (requestDelay k s).shReg = s.shReg := rfl
@[simp] theorem requestDelay_ackReg (k : DelayKind) : (requestDelay k s).ackReg = s.ackReg := rfl
@[simp] theorem requestDelay_upc (k : DelayKind) : (requestDelay k s).upc = s.upc := rfl
@[simp] theorem requestDelay_rspValid (k : DelayKind) : (requestDelay k s).rspValid = s.rspValid := rfl
@[simp] theorem requestDelay_rspData (k : DelayKind) : (requestDelay k s).rspData = s.rspData := rfl
@[simp] theorem requestDelay_dlyPending (k : DelayKind) : (requestDelay k s).dlyPending = some k := rfl
@[simp] theorem requestDelay_trace (k : DelayKind) : (requestDelay k s).trace = s.trace := rfl
@[simp] theorem requestDelay_phase (k : DelayKind) : (requestDelay k s).phase = s.phase := rfl
@[simp] theorem requestDelay_inp (k : DelayKind) : (requestDelay k s).inp = s.inp := rfl
@[simp] theorem requestDelay_freeIdx (k : DelayKind) : (requestDelay k s).freeIdx = s.freeIdx := rfl

/-! advance -/

@[simp] theorem advance_sclDrv : (advance s).sclDrv = s.sclDrv := rfl
@[simp] theorem advance_sdaDrv : (advance s).sdaDrv = s.sdaDrv := rfl
@[simp] theorem advance_cfg : (advance s).cfg = s.cfg := rfl
@[simp] theorem advance_busy : (advance s).busy = s.busy := rfl
@[simp] theorem advance_cmdReg : (advance s).cmdReg = s.cmdReg := rfl
@[simp] theorem advance_shReg : (advance s).shReg = s.shReg := rfl
@[simp] theorem advance_ackReg : (advance s).ackReg = s.ackReg := rfl
@[simp] theorem advance_upc : (advance s).upc = s.upc + 1 := rfl
@[simp] theorem advance_rspValid : (advance s).rspValid = s.rspValid := rfl
@[simp] theorem advance_rspData : (advance s).rspData = s.rspData := rfl
@[simp] theorem advance_dlyPending : (advance s).dlyPending = none := rfl
@[simp] theorem advance_trace : (advance s).trace = s.trace := rfl
@[simp] theorem advance_phase : (advance s).phase = s.phase := rfl
@[simp] theorem advance_inp : (advance s).inp = s.inp := rfl
@[simp] theorem advance_freeIdx : (advance s).freeIdx = s.freeIdx := rfl

/-! latch -/

@[simp] theorem latch_sclDrv (w : CmdWord) : (latch w s).sclDrv = s.sclDrv := rfl
@[simp] theorem latch_sdaDrv (w : CmdWord) : (latch w s).sdaDrv = s.sdaDrv := rfl
@[simp] theorem latch_cfg (w : CmdWord) : (latch w s).cfg = s.cfg := rfl
@[simp] theorem latch_busy (w : CmdWord) : (latch w s).busy = s.busy := rfl
@[simp] theorem latch_cmdReg (w : CmdWord) : (latch w s).cmdReg = w := rfl
@[simp] theorem latch_shReg (w : CmdWord) : (latch w s).shReg = s.shReg := rfl
@[simp] theorem latch_ackReg (w : CmdWord) : (latch w s).ackReg = s.ackReg := rfl
@[simp] theorem latch_upc (w : CmdWord) : (latch w s).upc = s.upc := rfl
@[simp] theorem latch_rspValid (w : CmdWord) : (latch w s).rspValid = false := rfl
@[simp] theorem latch_rspData (w : CmdWord) : (latch w s).rspData = s.rspData := rfl
@[simp] theorem latch_dlyPending (w : CmdWord) : (latch w s).dlyPending = s.dlyPending := rfl
@[simp] theorem latch_trace (w : CmdWord) : (latch w s).trace = s.trace := rfl
@[simp] theorem latch_phase (w : CmdWord) : (latch w s).phase = s.phase := rfl
@[simp] theorem latch_inp (w : CmdWord) : (latch w s).inp = { s.inp with cmds := s.inp.cmds.tail } := rfl
@[simp] theorem latch_freeIdx (w : CmdWord) : (latch w s).freeIdx = s.freeIdx := rfl

/-! occupy -/

@[simp] theorem occupy_sclDrv : (occupy s).sclDrv = s.sclDrv := rfl
@[simp] theorem occupy_sdaDrv : (occupy s).sdaDrv = s.sdaDrv := rfl
@[simp] theorem occupy_cfg : (occupy s).cfg = s.cfg := rfl
@[simp] theorem occupy_busy : (occupy s).busy = true := rfl
@[simp] theorem occupy_cmdReg : (occupy s).cmdReg = s.cmdReg := rfl
@[simp] theorem occupy_shReg : (occupy s).shReg = s.shReg := rfl
@[simp] theorem occupy_ackReg : (occupy s).ackReg = s.ackReg := rfl
@[simp] theorem occupy_upc : (occupy s).upc = 0 := rfl
@[simp] theorem occupy_rspValid : (occupy s).rspValid = s.rspValid := rfl
@[simp] theorem occupy_rspData : (occupy s).rspData = s.rspData := rfl
@[simp] theorem occupy_dlyPending : (occupy s).dlyPending = s.dlyPending := rfl
@[simp] theorem occupy_trace : (occupy s).trace = s.trace := rfl
@[simp] theorem occupy_phase : (occupy s).phase = s.phase := rfl
@[simp] theorem occupy_inp : (occupy s).inp = s.inp := rfl
@[simp] theorem occupy_freeIdx : (occupy s).freeIdx = s.freeIdx := rfl

/-! respond -/

@[simp] theorem respond_sclDrv (v : Byte) : (respond v s).sclDrv = s.sclDrv := rfl
@[simp] theorem respond_sdaDrv (v : Byte) : (respond v s).sdaDrv = s.sdaDrv := rfl
@[simp] theorem respond_cfg (v : Byte) : (respond v s).cfg = s.cfg := rfl
@[simp] theorem respond_busy (v : Byte) : (respond v s).busy = false := rfl
@[simp] theorem respond_cmdReg (v : Byte) : (respond v s).cmdReg = s.cmdReg := rfl
@[simp] theorem respond_shReg (v : Byte) : (respond v s).shReg = s.shReg := rfl
@[simp] theorem respond_ackReg (v : Byte) : (respond v s).ackReg = s.ackReg := rfl
@[simp] theorem respond_upc (v : Byte) : (respond v s).upc = s.upc := rfl
@[simp] theorem respond_rspValid (v : Byte) : (respond v s).rspValid = true := rfl
@[simp] theorem respond_rspData (v : Byte) : (respond v s).rspData = v := rfl
@[simp] theorem respond_dlyPending (v : Byte) : (respond v s).dlyPending = s.dlyPending := rfl
@[simp] theorem respond_trace (v : Byte) : (respond v s).trace = s.trace ++ [.response v] := rfl
@[simp] theorem respond_phase (v : Byte) : (respond v s).phase = s.phase := rfl
@[simp] theorem respond_inp (v : Byte) : (respond v s).inp = s.inp := rfl
@[simp] theorem respond_freeIdx (v : Byte) : (respond v s).freeIdx = s.freeIdx := rfl

/-! release -/

@[simp] theorem release_sclDrv : (release s).sclDrv = s.sclDrv := rfl
@[simp] theorem release_sdaDrv : (release s).sdaDrv = s.sdaDrv := rfl
@[simp] theorem release_cfg : (release s).cfg = s.cfg := rfl
@[simp] theorem release_busy : (release s).busy = s.busy := rfl
@[simp] theorem release_cmdReg : (release s).cmdReg = s.cmdReg := rfl
@[simp] theorem release_shReg : (release s).shReg = Config.freeShReg s.freeIdx := rfl
@[simp] theorem release_ackReg : (release s).ackReg = s.ackReg := rfl
@[simp] theorem release_upc : (release s).upc = Config.freeUpc s.freeIdx := rfl
@[simp] theorem release_rspValid : (release s).rspValid = s.rspValid := rfl
@[simp] theorem release_rspData : (release s).rspData = s.rspData := rfl
@[simp] theorem release_dlyPending : (release s).dlyPending = s.dlyPending := rfl
@[simp] theorem release_trace : (release s).trace = s.trace := rfl
@[simp] theorem release_phase : (release s).phase = s.phase := rfl
@[simp] theorem release_inp : (release s).inp = s.inp := rfl
@[simp] theorem release_freeIdx : (release s).freeIdx = s.freeIdx + 1 := rfl

/-! releaseAckReg -/

@[simp] theorem releaseAckReg_sclDrv : (releaseAckReg s).sclDrv = s.sclDrv := rfl
@[simp] theorem releaseAckReg_sdaDrv : (releaseAckReg s).sdaDrv = s.sdaDrv := rfl
@[simp] theorem releaseAckReg_cfg : (releaseAckReg s).cfg = s.cfg := rfl
@[simp] theorem releaseAckReg_busy : (releaseAckReg s).busy = s.busy := rfl
@[simp] theorem releaseAckReg_cmdReg : (releaseAckReg s).cmdReg = s.cmdReg := rfl
@[simp] theorem releaseAckReg_shReg : (releaseAckReg s).shReg = s.shReg := rfl
@[simp] theorem releaseAckReg_ackReg : (releaseAckReg s).ackReg = Config.freeAckReg s.freeIdx := rfl
@[simp] theorem releaseAckReg_upc : (releaseAckReg s).upc = s.upc := rfl
@[simp] theorem releaseAckReg_rspValid : (releaseAckReg s).rspValid = s.rspValid := rfl
@[simp] theorem releaseAckReg_rspData : (releaseAckReg s).rspData = s.rspData := rfl
@[simp] theorem releaseAckReg_dlyPending : (releaseAckReg s).dlyPending = s.dlyPending := rfl
@[simp] theorem releaseAckReg_trace : (releaseAckReg s).trace = s.trace := rfl
@[simp] theorem releaseAckReg_phase : (releaseAckReg s).phase = s.phase := rfl
@[simp] theorem releaseAckReg_inp : (releaseAckReg s).inp = s.inp := rfl
@[simp] theorem releaseAckReg_freeIdx : (releaseAckReg s).freeIdx = s.freeIdx := rfl

/-! waitIdle -/

@[simp] theorem waitIdle_sclDrv : (waitIdle s).sclDrv = s.sclDrv := rfl
@[simp] theorem waitIdle_sdaDrv : (waitIdle s).sdaDrv = s.sdaDrv := rfl
@[simp] theorem waitIdle_cfg : (waitIdle s).cfg = s.cfg := rfl
@[simp] theorem waitIdle_busy : (waitIdle s).busy = s.busy := rfl
@[simp] theorem waitIdle_cmdReg : (waitIdle s).cmdReg = s.cmdReg := rfl
@[simp] theorem waitIdle_shReg : (waitIdle s).shReg = s.shReg := rfl
@[simp] theorem waitIdle_ackReg : (waitIdle s).ackReg = s.ackReg := rfl
@[simp] theorem waitIdle_upc : (waitIdle s).upc = s.upc := rfl
@[simp] theorem waitIdle_rspValid : (waitIdle s).rspValid = false := rfl
@[simp] theorem waitIdle_rspData : (waitIdle s).rspData = s.rspData := rfl
@[simp] theorem waitIdle_dlyPending : (waitIdle s).dlyPending = s.dlyPending := rfl
@[simp] theorem waitIdle_trace : (waitIdle s).trace = s.trace := rfl
@[simp] theorem waitIdle_phase : (waitIdle s).phase = s.phase := rfl
@[simp] theorem waitIdle_inp : (waitIdle s).inp = s.inp := rfl
@[simp] theorem waitIdle_freeIdx : (waitIdle s).freeIdx = s.freeIdx := rfl

/-! dropPins -/

@[simp] theorem dropPins_sclDrv : (dropPins s).sclDrv = s.sclDrv := rfl
@[simp] theorem dropPins_sdaDrv : (dropPins s).sdaDrv = s.sdaDrv := rfl
@[simp] theorem dropPins_cfg : (dropPins s).cfg = s.cfg := rfl
@[simp] theorem dropPins_busy : (dropPins s).busy = s.busy := rfl
@[simp] theorem dropPins_cmdReg : (dropPins s).cmdReg = s.cmdReg := rfl
@[simp] theorem dropPins_shReg : (dropPins s).shReg = s.shReg := rfl
@[simp] theorem dropPins_ackReg : (dropPins s).ackReg = s.ackReg := rfl
@[simp] theorem dropPins_upc : (dropPins s).upc = s.upc := rfl
@[simp] theorem dropPins_rspValid : (dropPins s).rspValid = s.rspValid := rfl
@[simp] theorem dropPins_rspData : (dropPins s).rspData = s.rspData := rfl
@[simp] theorem dropPins_dlyPending : (dropPins s).dlyPending = s.dlyPending := rfl
@[simp] theorem dropPins_trace : (dropPins s).trace = s.trace := rfl
@[simp] theorem dropPins_phase : (dropPins s).phase = s.phase := rfl
@[simp] theorem dropPins_inp : (dropPins s).inp = { s.inp with pins := s.inp.pins.tail } := rfl
@[simp] theorem dropPins_freeIdx : (dropPins s).freeIdx = s.freeIdx := rfl

/-! resetBlock -/

@[simp] theorem resetBlock_sclDrv : (resetBlock s).sclDrv = .high := rfl
@[simp] theorem resetBlock_sdaDrv : (resetBlock s).sdaDrv = .high := rfl
@[simp] theorem resetBlock_cfg : (resetBlock s).cfg = false := rfl
@[simp] theorem resetBlock_busy : (resetBlock s).busy = false := rfl
@[simp] theorem resetBlock_cmdReg : (resetBlock s).cmdReg = 0 := rfl
@[simp] theorem resetBlock_shReg : (resetBlock s).shReg = 0 := rfl
@[simp] theorem resetBlock_ackReg : (resetBlock s).ackReg = 0 := rfl
@[simp] theorem resetBlock_upc : (resetBlock s).upc = 0 := rfl
@[simp] theorem resetBlock_rspValid : (resetBlock s).rspValid = false := rfl
@[simp] theorem resetBlock_rspData : (resetBlock s).rspData = 0 := rfl
@[simp] theorem resetBlock_dlyPending : (resetBlock s).dlyPending = none := rfl
@[simp] theorem resetBlock_trace : (resetBlock s).trace = [] := rfl
@[simp] theorem resetBlock_phase : (resetBlock s).phase = .uninit := rfl
@[simp] theorem resetBlock_inp : (resetBlock s).inp = s.inp := rfl
@[simp] theorem resetBlock_freeIdx : (resetBlock s).freeIdx = s.freeIdx := rfl

/-! envDrawn: a draw changes the script and the counter of free values only. -/

@[simp] theorem envDrawn_sclDrv : (envDrawn s).sclDrv = s.sclDrv := by unfold envDrawn; split <;> rfl
@[simp] theorem envDrawn_sdaDrv : (envDrawn s).sdaDrv = s.sdaDrv := by unfold envDrawn; split <;> rfl
@[simp] theorem envDrawn_cfg : (envDrawn s).cfg = s.cfg := by unfold envDrawn; split <;> rfl
@[simp] theorem envDrawn_busy : (envDrawn s).busy = s.busy := by unfold envDrawn; split <;> rfl
@[simp] theorem envDrawn_cmdReg : (envDrawn s).cmdReg = s.cmdReg := by unfold envDrawn; split <;> rfl
@[simp] theorem envDrawn_shReg : (envDrawn s).shReg = s.shReg := by unfold envDrawn; split <;> rfl
@[simp] theorem envDrawn_ackReg : (envDrawn s).ackReg = s.ackReg := by unfold envDrawn; split <;> rfl
@[simp] theorem envDrawn_upc : (envDrawn s).upc = s.upc := by unfold envDrawn; split <;> rfl
@[simp] theorem envDrawn_rspValid : (envDrawn s).rspValid = s.rspValid := by unfold envDrawn; split <;> rfl
@[simp] theorem envDrawn_rspData : (envDrawn s).rspData = s.rspData := by unfold envDrawn; split <;> rfl
@[simp] theorem envDrawn_dlyPending : (envDrawn s).dlyPending = s.dlyPending := by unfold envDrawn; split <;> rfl
@[simp] theorem envDrawn_trace : (envDrawn s).trace = s.trace := by unfold envDrawn; split <;> rfl
@[simp] theorem envDrawn_phase : (envDrawn s).phase = s.phase := by unfold envDrawn; split <;> rfl
@[simp] theorem envDrawn_cmds : (envDrawn s).inp.cmds = s.inp.cmds := by unfold envDrawn; split <;> rfl
@[simp] theorem envDrawn_pins : (envDrawn s).inp.pins = s.inp.pins := by unfold envDrawn; split <;> rfl

end Sys2Proof.Machine
end

