-- ==== Sys2Proof/Laws/Ops.lean ====
section
/-! SUPPORT. What each shared operation can do, said once: a micro-operation, a list of them, the completion of a
command. Later proofs cite these and do not unfold the operations. -/

namespace Sys2Proof.Machine

/-- The one event a micro-operation emits (R110 to R114). -/
def microEvent (m : MicroOp) (s : State) : Event :=
  match m with
  | .configOpenDrain => .openDrain
  | .writeClock l => .clock l
  | .writeData l => .data l
  | .writeSendBit i => .data (sendLevel s.shReg i)
  | .readData _ => .read (sdaLine s (envLevel s))
  | .delayInit => .initDelay

/-! One micro-operation up to its delay. -/

section Begin
variable (m : MicroOp) (s : State)

@[simp] theorem storeSample_sclDrv (d : Sink) (l : Level) : (storeSample d l s).sclDrv = s.sclDrv := by cases d <;> rfl
@[simp] theorem storeSample_sdaDrv (d : Sink) (l : Level) : (storeSample d l s).sdaDrv = s.sdaDrv := by cases d <;> rfl
@[simp] theorem storeSample_cfg (d : Sink) (l : Level) : (storeSample d l s).cfg = s.cfg := by cases d <;> rfl
@[simp] theorem storeSample_busy (d : Sink) (l : Level) : (storeSample d l s).busy = s.busy := by cases d <;> rfl
@[simp] theorem storeSample_cmdReg (d : Sink) (l : Level) : (storeSample d l s).cmdReg = s.cmdReg := by cases d <;> rfl
@[simp] theorem storeSample_upc (d : Sink) (l : Level) : (storeSample d l s).upc = s.upc := by cases d <;> rfl
@[simp] theorem storeSample_rspValid (d : Sink) (l : Level) : (storeSample d l s).rspValid = s.rspValid := by
  cases d <;> rfl
@[simp] theorem storeSample_rspData (d : Sink) (l : Level) : (storeSample d l s).rspData = s.rspData := by
  cases d <;> rfl
@[simp] theorem storeSample_trace (d : Sink) (l : Level) : (storeSample d l s).trace = s.trace := by cases d <;> rfl
@[simp] theorem storeSample_phase (d : Sink) (l : Level) : (storeSample d l s).phase = s.phase := by cases d <;> rfl
@[simp] theorem storeSample_inp (d : Sink) (l : Level) : (storeSample d l s).inp = s.inp := by cases d <;> rfl
@[simp] theorem storeSample_freeIdx (d : Sink) (l : Level) : (storeSample d l s).freeIdx = s.freeIdx := by
  cases d <;> rfl

@[simp] theorem beginMicro_busy : (beginMicro m s).busy = s.busy := by
  cases m <;> simp [beginMicro, beginConfigOpenDrain, beginWriteClock, beginWriteData, beginReadData, beginDelayInit]
@[simp] theorem beginMicro_cmdReg : (beginMicro m s).cmdReg = s.cmdReg := by
  cases m <;> simp [beginMicro, beginConfigOpenDrain, beginWriteClock, beginWriteData, beginReadData, beginDelayInit]
@[simp] theorem beginMicro_upc : (beginMicro m s).upc = s.upc := by
  cases m <;> simp [beginMicro, beginConfigOpenDrain, beginWriteClock, beginWriteData, beginReadData, beginDelayInit]
@[simp] theorem beginMicro_rspValid : (beginMicro m s).rspValid = s.rspValid := by
  cases m <;> simp [beginMicro, beginConfigOpenDrain, beginWriteClock, beginWriteData, beginReadData, beginDelayInit]
@[simp] theorem beginMicro_rspData : (beginMicro m s).rspData = s.rspData := by
  cases m <;> simp [beginMicro, beginConfigOpenDrain, beginWriteClock, beginWriteData, beginReadData, beginDelayInit]
@[simp] theorem beginMicro_phase : (beginMicro m s).phase = s.phase := by
  cases m <;> simp [beginMicro, beginConfigOpenDrain, beginWriteClock, beginWriteData, beginReadData, beginDelayInit]
@[simp] theorem beginMicro_cmds : (beginMicro m s).inp.cmds = s.inp.cmds := by
  cases m <;> simp [beginMicro, beginConfigOpenDrain, beginWriteClock, beginWriteData, beginReadData, beginDelayInit]
@[simp] theorem beginMicro_pins : (beginMicro m s).inp.pins = s.inp.pins := by
  cases m <;> simp [beginMicro, beginConfigOpenDrain, beginWriteClock, beginWriteData, beginReadData, beginDelayInit]

/-- A micro-operation emits exactly its one event. -/
theorem beginMicro_trace : (beginMicro m s).trace = s.trace ++ [microEvent m s] := by
  cases m <;>
    simp [beginMicro, microEvent, beginConfigOpenDrain, beginWriteClock, beginWriteData, beginReadData, beginDelayInit]

/-- A micro-operation moves the drive registers exactly as its event says (R65). -/
theorem beginMicro_drive : driveOf (beginMicro m s) = driveAfter (driveOf s) (microEvent m s) := by
  cases m <;>
    simp [beginMicro, microEvent, driveOf, driveAfter, beginConfigOpenDrain, beginWriteClock, beginWriteData,
      beginReadData, beginDelayInit]

/-- A micro-operation begun leaves outstanding the request it makes, or what was there if it makes none. -/
theorem beginMicro_dlyPending : (beginMicro m s).dlyPending = m.delay.or s.dlyPending := by
  cases m <;>
    simp [beginMicro, MicroOp.delay, beginConfigOpenDrain, beginWriteClock, beginWriteData, beginReadData,
      beginDelayInit]

/-- `CFG` is set by `ConfigOpenDrain` and by no other micro-operation (R22, R114). -/
theorem beginMicro_cfg : (beginMicro m s).cfg = (s.cfg || m == .configOpenDrain) := by
  cases m <;> simp [beginMicro, beginConfigOpenDrain, beginWriteClock, beginWriteData, beginReadData, beginDelayInit]

/-- `ACKREG` is written by a read into it and by no other micro-operation (R27). -/
theorem beginMicro_ackReg (h : m ≠ .readData .ackReg) : (beginMicro m s).ackReg = s.ackReg := by
  cases m with
  | readData d => cases d <;> simp_all [beginMicro, beginReadData, storeSample]
  | _ => simp [beginMicro, beginConfigOpenDrain, beginWriteClock, beginWriteData, beginDelayInit]

/-- `SHREG` is written by a read into it and by no other micro-operation (R26). -/
theorem beginMicro_shReg (h : ∀ i, m ≠ .readData (.shReg i)) : (beginMicro m s).shReg = s.shReg := by
  cases m with
  | readData d => cases d <;> simp_all [beginMicro, beginReadData, storeSample]
  | _ => simp [beginMicro, beginConfigOpenDrain, beginWriteClock, beginWriteData, beginDelayInit]

end Begin

/-! A list of micro-operations. -/

theorem performAll_append (ms ns : List MicroOp) (s : State) :
    performAll (ms ++ ns) s = performAll ns (performAll ms s) := by
  induction ms generalizing s with
  | nil => rfl
  | cons m ms ih => exact ih _

/-- A field no micro-operation writes is left alone by a list of them. -/
theorem performAll_keeps {α : Type} (f : State → α) (h : ∀ m s, f (performMicro m s) = f s) (ms : List MicroOp)
    (s : State) : f (performAll ms s) = f s := by
  induction ms generalizing s with
  | nil => rfl
  | cons m ms ih => exact (ih _).trans (h m s)

section PerformAll
variable (ms : List MicroOp) (s : State)

@[simp] theorem performAll_busy : (performAll ms s).busy = s.busy :=
  performAll_keeps State.busy (by simp [performMicro]) ms s
@[simp] theorem performAll_cmdReg : (performAll ms s).cmdReg = s.cmdReg :=
  performAll_keeps State.cmdReg (by simp [performMicro]) ms s
@[simp] theorem performAll_rspValid : (performAll ms s).rspValid = s.rspValid :=
  performAll_keeps State.rspValid (by simp [performMicro]) ms s
@[simp] theorem performAll_rspData : (performAll ms s).rspData = s.rspData :=
  performAll_keeps State.rspData (by simp [performMicro]) ms s
@[simp] theorem performAll_phase : (performAll ms s).phase = s.phase :=
  performAll_keeps State.phase (by simp [performMicro]) ms s
@[simp] theorem performAll_cmds : (performAll ms s).inp.cmds = s.inp.cmds :=
  performAll_keeps (fun s => s.inp.cmds) (by simp [performMicro]) ms s
@[simp] theorem performAll_pins : (performAll ms s).inp.pins = s.inp.pins :=
  performAll_keeps (fun s => s.inp.pins) (by simp [performMicro]) ms s

/-- A list of micro-operations adds one event each, and moves the drive registers as those events say. -/
theorem performAll_events : ∃ es, es.length = ms.length ∧ (performAll ms s).trace = s.trace ++ es ∧
    driveOf (performAll ms s) = driveEnd (driveOf s) es := by
  induction ms generalizing s with
  | nil => exact ⟨[], rfl, by simp [performAll], rfl⟩
  | cons m ms ih =>
    obtain ⟨es, hl, ht, hd⟩ := ih (performMicro m s)
    refine ⟨microEvent m s :: es, by simp [hl], ?_, ?_⟩
    · rw [performAll, ht, performMicro, advance_trace, beginMicro_trace]; simp
    · rw [performAll, hd]
      exact congrArg (driveEnd · es) (beginMicro_drive m s)

end PerformAll

/-! Completion. -/

@[simp] theorem complete_sclDrv (v : Byte) (s : State) : (complete v s).sclDrv = s.sclDrv := rfl
@[simp] theorem complete_sdaDrv (v : Byte) (s : State) : (complete v s).sdaDrv = s.sdaDrv := rfl
@[simp] theorem complete_cfg (v : Byte) (s : State) : (complete v s).cfg = s.cfg := rfl
@[simp] theorem complete_busy (v : Byte) (s : State) : (complete v s).busy = false := rfl
@[simp] theorem complete_cmdReg (v : Byte) (s : State) : (complete v s).cmdReg = s.cmdReg := rfl
@[simp] theorem complete_ackReg (v : Byte) (s : State) : (complete v s).ackReg = s.ackReg := rfl
@[simp] theorem complete_rspValid (v : Byte) (s : State) : (complete v s).rspValid = true := rfl
@[simp] theorem complete_rspData (v : Byte) (s : State) : (complete v s).rspData = v := rfl
@[simp] theorem complete_dlyPending (v : Byte) (s : State) : (complete v s).dlyPending = s.dlyPending := rfl
@[simp] theorem complete_trace (v : Byte) (s : State) : (complete v s).trace = s.trace ++ [.response v] := rfl
@[simp] theorem complete_phase (v : Byte) (s : State) : (complete v s).phase = s.phase := rfl
@[simp] theorem complete_inp (v : Byte) (s : State) : (complete v s).inp = s.inp := rfl

section Finish
variable (i : Instr) (s : State)

@[simp] theorem finishOf_sclDrv : (finishOf i s).sclDrv = s.sclDrv := by cases i <;> rfl
@[simp] theorem finishOf_sdaDrv : (finishOf i s).sdaDrv = s.sdaDrv := by cases i <;> rfl
@[simp] theorem finishOf_cfg : (finishOf i s).cfg = s.cfg := by cases i <;> rfl
@[simp] theorem finishOf_busy : (finishOf i s).busy = false := by cases i <;> rfl
@[simp] theorem finishOf_cmdReg : (finishOf i s).cmdReg = s.cmdReg := by cases i <;> rfl
@[simp] theorem finishOf_rspValid : (finishOf i s).rspValid = true := by cases i <;> rfl
@[simp] theorem finishOf_dlyPending : (finishOf i s).dlyPending = s.dlyPending := by cases i <;> rfl
@[simp] theorem finishOf_inp : (finishOf i s).inp = s.inp := by cases i <;> rfl

/-- The response of a command is the last event of its trace and what `RSP_DATA` holds (R87). -/
theorem finishOf_trace : (finishOf i s).trace = s.trace ++ [.response (finishOf i s).rspData] := by cases i <;> rfl

end Finish

/-! Accept. -/

section Load
variable (i : Instr) (s : State)

@[simp] theorem loadOf_sclDrv : (loadOf i s).sclDrv = s.sclDrv := by cases i <;> rfl
@[simp] theorem loadOf_sdaDrv : (loadOf i s).sdaDrv = s.sdaDrv := by cases i <;> rfl
@[simp] theorem loadOf_cfg : (loadOf i s).cfg = s.cfg := by cases i <;> rfl
@[simp] theorem loadOf_busy : (loadOf i s).busy = s.busy := by cases i <;> rfl
@[simp] theorem loadOf_cmdReg : (loadOf i s).cmdReg = s.cmdReg := by cases i <;> rfl
@[simp] theorem loadOf_ackReg : (loadOf i s).ackReg = s.ackReg := by cases i <;> rfl
@[simp] theorem loadOf_upc : (loadOf i s).upc = s.upc := by cases i <;> rfl
@[simp] theorem loadOf_rspValid : (loadOf i s).rspValid = s.rspValid := by cases i <;> rfl
@[simp] theorem loadOf_rspData : (loadOf i s).rspData = s.rspData := by cases i <;> rfl
@[simp] theorem loadOf_dlyPending : (loadOf i s).dlyPending = s.dlyPending := by cases i <;> rfl
@[simp] theorem loadOf_trace : (loadOf i s).trace = s.trace := by cases i <;> rfl
@[simp] theorem loadOf_phase : (loadOf i s).phase = s.phase := by cases i <;> rfl
@[simp] theorem loadOf_inp : (loadOf i s).inp = s.inp := by cases i <;> rfl
@[simp] theorem loadOf_freeIdx : (loadOf i s).freeIdx = s.freeIdx := by cases i <;> rfl

end Load

end Sys2Proof.Machine
end

