-- ==== Sys2Proof/Laws/Step.lean ====
section
/-! SUPPORT. What `exec` and `step` can do, said once. -/

namespace Sys2Proof.Machine

/-- `exec` is one shape for every command: refused before `init` (R23), else accepted, run and completed. -/
theorem exec_eq (i : Instr) (s : State) :
    exec i s = if admitted s i then .next (runCommand (loadOf i) (seqOf i) (finishOf i) s)
      else .refused .commandBeforeInit := by
  cases i <;> rfl

/-- With `CFG = 1` every command is admitted (R203). -/
theorem admitted_of_cfg (i : Instr) (s : State) (h : s.cfg = true) : admitted s i = true := by
  cases i <;> simp [admitted, h]

/-- With `CFG = 0` only `init` is admitted (R23). -/
theorem admitted_of_not_cfg (i : Instr) (s : State) (h : s.cfg = false) : admitted s i = true ↔ i = .init := by
  cases i <;> simp [admitted, h]

/-- An admitted command answers a next state. -/
theorem exec_next (i : Instr) (s : State) (h : admitted s i = true) :
    exec i s = .next (runCommand (loadOf i) (seqOf i) (finishOf i) s) := by
  rw [exec_eq, if_pos h]

/-- If a command answers a next state, it was admitted and that state is its completion. -/
theorem exec_cases {i : Instr} {s t : State} (h : exec i s = .next t) :
    admitted s i = true ∧ t = runCommand (loadOf i) (seqOf i) (finishOf i) s := by
  rw [exec_eq] at h
  split at h
  · exact ⟨‹_›, by cases h; rfl⟩
  · cases h

/-! The micro-step. -/

section MicroStep
variable (i : Instr) (m : MicroOp) (done : Bool) (s : State)

@[simp] theorem endMicro_inp : (endMicro i s).inp = s.inp := by unfold endMicro; split <;> simp
@[simp] theorem endMicro_cmdReg : (endMicro i s).cmdReg = s.cmdReg := by unfold endMicro; split <;> simp
@[simp] theorem endMicro_cfg : (endMicro i s).cfg = s.cfg := by unfold endMicro; split <;> simp
@[simp] theorem endMicro_sclDrv : (endMicro i s).sclDrv = s.sclDrv := by unfold endMicro; split <;> simp
@[simp] theorem endMicro_sdaDrv : (endMicro i s).sdaDrv = s.sdaDrv := by unfold endMicro; split <;> simp

@[simp] theorem begunMicro_busy : (begunMicro m s).busy = s.busy := by unfold begunMicro; split <;> simp
@[simp] theorem begunMicro_cmdReg : (begunMicro m s).cmdReg = s.cmdReg := by unfold begunMicro; split <;> simp
@[simp] theorem begunMicro_upc : (begunMicro m s).upc = s.upc := by unfold begunMicro; split <;> simp
@[simp] theorem begunMicro_rspValid : (begunMicro m s).rspValid = s.rspValid := by unfold begunMicro; split <;> simp
@[simp] theorem begunMicro_phase : (begunMicro m s).phase = s.phase := by unfold begunMicro; split <;> simp
@[simp] theorem begunMicro_cmds : (begunMicro m s).inp.cmds = s.inp.cmds := by unfold begunMicro; split <;> simp
@[simp] theorem begunMicro_pins : (begunMicro m s).inp.pins = s.inp.pins := by unfold begunMicro; split <;> simp

theorem begunMicro_of_none (h : s.dlyPending = none) : begunMicro m s = beginMicro m s := by simp [begunMicro, h]

theorem begunMicro_of_pending (h : s.dlyPending.isSome = true) : begunMicro m s = s := by simp [begunMicro, h]

/-- Everything a micro-step inside a command's length can have done: it waits, goes on to the next index, or completes
the command. -/
theorem microStep_cases (h : (seqOf (decode s.cmdReg))[s.upc.toNat]? = some m) :
    (done = false ∧ (begunMicro m s).dlyPending.isSome = true ∧ microStep done s = begunMicro m s) ∨
    (s.upc.toNat + 1 < lenOf (decode s.cmdReg) ∧ microStep done s = advance (begunMicro m s)) ∨
    (¬ s.upc.toNat + 1 < lenOf (decode s.cmdReg) ∧
      microStep done s = finishOf (decode s.cmdReg) (advance (begunMicro m s))) := by
  unfold microStep
  rw [h]
  simp only [Bool.and_eq_true, Bool.not_eq_eq_eq_not, Bool.not_true, endMicro, begunMicro_upc]
  by_cases hw : (begunMicro m s).dlyPending.isSome = true ∧ done = false
  · exact .inl ⟨hw.2, hw.1, if_pos hw⟩
  · rw [if_neg hw]
    by_cases hl : s.upc.toNat + 1 < lenOf (decode s.cmdReg)
    · exact .inr (.inl ⟨hl, if_pos hl⟩)
    · exact .inr (.inr ⟨hl, if_neg hl⟩)

@[simp] theorem microStep_cmds : (microStep done s).inp.cmds = s.inp.cmds := by
  unfold microStep; split <;> [simp; (split <;> simp)]
@[simp] theorem microStep_pins : (microStep done s).inp.pins = s.inp.pins := by
  unfold microStep; split <;> [simp; (split <;> simp)]
@[simp] theorem microStep_cmdReg : (microStep done s).cmdReg = s.cmdReg := by
  unfold microStep; split <;> [simp; (split <;> simp)]

end MicroStep

/-- No command is longer than 25 micro-operations (R28). -/
theorem lenOf_le (i : Instr) : lenOf i ≤ 25 := by
  cases i with
  | sendByte v => exact Nat.le_of_lt (show 24 < 25 by decide)
  | sendAck b => exact (show 3 ≤ 25 by decide)
  | _ => decide

/-- With no pins left a step is undisturbed. -/
theorem step_of_no_pins (s : State) (h : s.inp.pins = []) : step s = calmStep s := by
  unfold step; rw [h]

/-- With pins left a step is one micro-step under the next of them. -/
theorem step_of_pins (s : State) (p : Pins) (ps : List Pins) (h : s.inp.pins = p :: ps) :
    step s = pinStep p (dropPins s) := by
  unfold step; rw [h]

/-- Everything a step that answers a next state can have done. -/
theorem step_cases {s t : State} (h : step s = .next t) :
    (s.inp.pins = [] ∧ s.busy = true ∧ t = microStep true s) ∨
    (s.inp.pins = [] ∧ s.busy = false ∧ s.inp.cmds = [] ∧ t = waitIdle s) ∨
    (∃ w ws, s.inp.pins = [] ∧ s.busy = false ∧ s.inp.cmds = w :: ws ∧ exec (decode w) (latch w s) = .next t) ∨
    (∃ p ps, s.inp.pins = p :: ps ∧ p.rst = true ∧ t = resetBlock (dropPins s)) ∨
    (∃ p ps, s.inp.pins = p :: ps ∧ p.rst = false ∧ s.busy = true ∧ t = microStep p.dlyDone (dropPins s)) ∨
    (∃ p ps, s.inp.pins = p :: ps ∧ p.rst = false ∧ s.busy = false ∧
      (p.cmdValid = false ∨ s.inp.cmds = []) ∧ t = waitIdle (dropPins s)) ∨
    (∃ p ps w ws, s.inp.pins = p :: ps ∧ p.rst = false ∧ s.busy = false ∧ p.cmdValid = true ∧
      s.inp.cmds = w :: ws ∧ acceptOnly (decode w) (latch w (dropPins s)) = .next t) := by
  cases hp : s.inp.pins with
  | nil =>
    rw [step_of_no_pins s hp, calmStep] at h
    split at h
    · exact .inl ⟨rfl, ‹_›, by cases h; rfl⟩
    · have hb : s.busy = false := by simpa using ‹¬ s.busy = true›
      split at h
      · exact .inr (.inl ⟨rfl, hb, ‹_›, by cases h; rfl⟩)
      · exact .inr (.inr (.inl ⟨_, _, rfl, hb, ‹_›, h⟩))
  | cons p ps =>
    rw [step_of_pins s p ps hp, pinStep] at h
    right; right; right
    split at h
    · exact .inl ⟨p, ps, rfl, ‹_›, by cases h; rfl⟩
    · have hr : p.rst = false := by simpa using ‹¬ p.rst = true›
      split at h
      · exact .inr (.inl ⟨p, ps, rfl, hr, ‹_›, by cases h; rfl⟩)
      · have hb : s.busy = false := by simpa using ‹¬ (dropPins s).busy = true›
        split at h
        · split at h
          · exact .inr (.inr (.inl ⟨p, ps, rfl, hr, hb, .inr ‹_›, by cases h; rfl⟩))
          · exact .inr (.inr (.inr ⟨p, ps, _, _, rfl, hr, hb, ‹_›, ‹_›, h⟩))
        · have hv : p.cmdValid = false := by simpa using ‹¬ p.cmdValid = true›
          exact .inr (.inr (.inl ⟨p, ps, rfl, hr, hb, .inl hv, by cases h; rfl⟩))

end Sys2Proof.Machine
end

