-- ==== Sys2Proof/Laws/Events.lean ====
section
/-! SUPPORT. What is read off a list of events, taken apart along the list: counts, responses, the drive pair, the
events a step has added. -/

namespace Sys2Proof.Machine

/-- The drive pair after two lists of events is that after the second, begun where the first ends. -/
theorem driveEnd_append (p : Drive) (a b : List Event) : driveEnd p (a ++ b) = driveEnd (driveEnd p a) b := by
  simp [driveEnd, List.foldl_append]

/-- A count over two lists is the count over the first and the count over the second, begun where the first ends. -/
theorem countEvents_append (test : Drive → Event → Bool) (p : Drive) (a b : List Event) :
    countEvents test p (a ++ b) = countEvents test p a + countEvents test (driveEnd p a) b := by
  induction a generalizing p with
  | nil => simp [countEvents, driveEnd]
  | cons e a ih => simp [countEvents, driveEnd, ih]; omega

/-- The responses of two lists are those of the first, then those of the second. -/
theorem responses_append (a b : List Event) : responses (a ++ b) = responses a ++ responses b := by
  induction a with
  | nil => rfl
  | cons e a ih => cases e <;> simp [responses, ih]

/-- The events a step has added are what it appended to the trace. -/
theorem newEvents_of {s t : State} {es : List Event} (h : t.trace = s.trace ++ es) : newEvents s t = es := by
  simp [newEvents, h]

/-- A micro-operation emits no response. -/
theorem responses_microEvent (m : MicroOp) (s : State) : responses [microEvent m s] = [] := by cases m <;> rfl

end Sys2Proof.Machine
end

