-- ==== Sys2Proof/Laws/ByteTransfer.lean ====
section
/-! SUPPORT. The environment's draws and the receiving loop: what eight iterations of `receiveByte` leave, as an
induction over the iterations. -/

namespace Sys2Proof.Machine

/-- A draw uses up the script's next level. -/
theorem envDrawn_sdaEnv (s : State) : (envDrawn s).inp.sdaEnv = s.inp.sdaEnv.drop 1 := by
  unfold envDrawn; split <;> simp_all

/-- The next level depends on the script and the draw counter alone. -/
theorem envLevel_congr {s t : State} (h : t.inp.sdaEnv = s.inp.sdaEnv) (hi : t.freeIdx = s.freeIdx) :
    envLevel t = envLevel s := by
  unfold envLevel; rw [h, hi]

/-- So do the script and the counter after a draw. -/
theorem envDrawn_congr {s t : State} (h : t.inp.sdaEnv = s.inp.sdaEnv) (hi : t.freeIdx = s.freeIdx) :
    (envDrawn t).inp.sdaEnv = (envDrawn s).inp.sdaEnv ∧ (envDrawn t).freeIdx = (envDrawn s).freeIdx := by
  unfold envDrawn
  cases hs : s.inp.sdaEnv <;> simp [h, hs, hi]

/-- The next `n` levels depend on the script and the draw counter alone. -/
theorem envLevels_congr (n : Nat) {s t : State} (h : t.inp.sdaEnv = s.inp.sdaEnv) (hi : t.freeIdx = s.freeIdx) :
    envLevels n t = envLevels n s := by
  induction n generalizing s t with
  | zero => rfl
  | succ n ih =>
    simp only [envLevels]
    rw [envLevel_congr h hi, ih (envDrawn_congr h hi).1 (envDrawn_congr h hi).2]

/-- `n` draws give `n` levels. -/
theorem envLevels_length (n : Nat) (s : State) : (envLevels n s).length = n := by
  induction n generalizing s with
  | zero => rfl
  | succ n ih => simp [envLevels, ih]

/-- The draws follow the script as long as it lasts. -/
theorem envLevels_of_script (ls rest : List Level) (s : State) (h : s.inp.sdaEnv = ls ++ rest) :
    envLevels ls.length s = ls := by
  induction ls generalizing s with
  | nil => rfl
  | cons l ls ih =>
    simp only [List.length_cons, envLevels]
    rw [ih (envDrawn s) (by rw [envDrawn_sdaEnv, h]; rfl)]
    simp [envLevel, h]

/-- One iteration of the receiving loop, with Data released (R165). -/
theorem receiveBitSeq_spec (i : Nat) (s : State) (h : s.sdaDrv = .high) :
    let t := performAll (receiveBitSeq i) s
    t.trace = s.trace ++ [.clock .high, .read (envLevel s), .clock .low] ∧ t.sdaDrv = .high ∧ t.sclDrv = .low ∧
      t.cfg = s.cfg ∧ t.ackReg = s.ackReg ∧ t.dlyPending = none ∧ t.shReg = orSample s.shReg i (envLevel s) ∧
      t.inp.sdaEnv = (envDrawn s).inp.sdaEnv ∧ t.freeIdx = (envDrawn s).freeIdx := by
  have hl : ∀ t : State, t.inp.sdaEnv = s.inp.sdaEnv → t.freeIdx = s.freeIdx → envLevel t = envLevel s :=
    fun t => envLevel_congr
  have hd := envDrawn_congr (s := s) (t := performMicro (.writeClock .high) s) rfl rfl
  simp only [performMicro, beginMicro, beginWriteClock] at hd
  simp only [receiveBitSeq, performAll, performMicro, beginMicro, beginWriteClock, beginReadData, storeSample, sdaLine]
  simp [h]
  rw [hl _ rfl rfl]
  exact ⟨rfl, rfl, hd⟩

/-- Any number of iterations of the receiving loop (R165, R166). -/
theorem receiveBits_spec (is : List Nat) (s : State) (h : s.sdaDrv = .high) :
    let t := performAll (is.flatMap receiveBitSeq) s
    t.trace = s.trace ++
        (envLevels is.length s).flatMap (fun l => [.clock .high, .read l, .clock .low]) ∧
      t.sdaDrv = .high ∧ (is ≠ [] → t.sclDrv = .low ∧ t.dlyPending = none) ∧ t.cfg = s.cfg ∧ t.ackReg = s.ackReg ∧
      t.shReg = (is.zip (envLevels is.length s)).foldl (fun a p => orSample a p.1 p.2) s.shReg ∧
      t.inp.sdaEnv = s.inp.sdaEnv.drop is.length := by
  induction is generalizing s with
  | nil => simp [performAll, envLevels, h]
  | cons i is ih =>
    obtain ⟨h1, h2, h3, h4, h5, h6, h7, h8, h9⟩ := receiveBitSeq_spec i s h
    obtain ⟨k1, k2, k3, k4, k5, k6, k7⟩ := ih (performAll (receiveBitSeq i) s) h2
    have he := envLevels_congr is.length h8 h9
    simp only [List.flatMap_cons, performAll_append]
    refine ⟨?_, k2, ?_, by rw [k4, h4], by rw [k5, h5], ?_, ?_⟩
    · rw [k1, he, h1]; simp [envLevels]
    · intro _
      cases is with
      | nil => exact ⟨h3, h6⟩
      | cons _ _ => exact k3 (by simp)
    · rw [k6, he, h7]; simp [envLevels]
    · rw [k7, h8, envDrawn_sdaEnv]; simp

end Sys2Proof.Machine
end

