-- ==== Sys2Proof/Laws/PerInstr.lean ====
section
/-! SUPPORT. What is said of every command as syntax, one lemma per command. -/

namespace Sys2Proof.Laws.Encoding

/-- The command is well-formed, its canonical word carries its opcode (R81), and every bit outside its mask of
significant bits is 0 there (R83, R84). -/
def Statement (i : Instr) : Prop :=
  i.wf = true ∧ opField (encode i) = opcode i ∧ encode i &&& significantMask i = encode i

theorem init : Statement .init := by unfold Statement; decide
theorem start : Statement .start := by unfold Statement; decide
theorem stop : Statement .stop := by unfold Statement; decide
theorem sendByte (v : Byte) : Statement (.sendByte v) := by unfold Statement; revert v; decide +kernel
theorem receiveByte : Statement .receiveByte := by unfold Statement; decide
theorem waitAck : Statement .waitAck := by unfold Statement; decide
theorem sendAck (b : Bit) : Statement (.sendAck b) := by unfold Statement; revert b; decide
theorem receiveAck : Statement .receiveAck := by unfold Statement; decide

end Sys2Proof.Laws.Encoding
end

