-- ==== Sys2Proof/Laws/Ports.lean ====
section
/-! SUPPORT. What the request pulsed on `dly_req` is, said once (R233). -/

namespace Sys2Proof.Machine

/-- Between commands nothing is requested. -/
theorem delayRequest_of_idle (s : State) (h : s.busy = false) : delayRequest s = none := by simp [delayRequest, h]

/-- While a request is outstanding no other is pulsed. -/
theorem delayRequest_of_pending (s : State) (h : s.dlyPending.isSome = true) : delayRequest s = none := by
  simp [delayRequest, Option.isNone_eq_false_iff.mpr h]

/-- A micro-operation about to begin pulses the delay it takes. -/
theorem delayRequest_of_begin (s : State) (m : MicroOp) (hb : s.busy = true) (hd : s.dlyPending = none)
    (hm : (seqOf (decode s.cmdReg))[s.upc.toNat]? = some m) : delayRequest s = m.delay := by
  simp [delayRequest, hb, hd, hm, beginMicro_dlyPending]

end Sys2Proof.Machine
end

