-- ==== Sys2Proof/Tests/Slice0.lean ====
section
/-! SUPPORT. The model's own tests, each on one command or one micro-operation with the expected result taken from
spec/95_test_vectors.md or worked out from the rule named, and for each obligation with hypotheses a witness that meets
them. -/

namespace Sys2Proof.Tests

open Sys2Proof Sys2Proof.Machine Sys2Proof.Safety

/-- A configured block between commands, with the given drives. -/
def idleAt (scl sda : Level) : State :=
  { State.reset with sclDrv := scl, sdaDrv := sda, cfg := true, phase := .captured }

/-- The same with an environment script. -/
def scripted (scl sda : Level) (env : List Level) : State :=
  { idleAt scl sda with inp := { cmds := [], sdaEnv := env, pins := [] } }

/-- The same with command words and pins the host and the outside will give. -/
def queued (cmds : List CmdWord) (pins : List Pins) : State :=
  { idleAt .low .high with inp := { cmds := cmds, sdaEnv := [], pins := pins } }

/-- A block in the middle of the command of the word `w`, at index `upc`. -/
def running (w : CmdWord) (upc : BitVec 5) (pins : List Pins) : State :=
  { queued [] pins with busy := true, cmdReg := w, upc := upc }

/-- What a step answered, if it is a next state, read through `f`. -/
def nextOf {α : Type} (f : State → α) (o : Host.Outcome State Fault Refusal) : Option α :=
  match o with
  | .next t => some (f t)
  | .fault _ => none
  | .refused _ => none

/-- The end of a command as the test vectors give it: the drives and the trace. -/
def seen (s : State) : Level × Level × List Event := (s.sclDrv, s.sdaDrv, s.trace)

/-- Whether an outcome is the refusal of R23. -/
def isRefused (o : Host.Outcome State Fault Refusal) : Bool :=
  match o with
  | .next _ => false
  | .fault _ => false
  | .refused r => r = .commandBeforeInit

/-! ## WellFormed: each check refuses an ill-formed written command (R89) -/

theorem test_wf_sendByte_range : (Call.mk .sendByte (some 256)).wf = false := by decide
theorem test_wf_sendAck_range : (Call.mk .sendAck (some 2)).wf = false := by decide
theorem test_wf_sendByte_empty : (Call.mk .sendByte none).wf = false := by decide
theorem test_wf_sendAck_empty : (Call.mk .sendAck none).wf = false := by decide
theorem test_wf_init_operand : (Call.mk .init (some 0)).wf = false := by decide
theorem test_wf_start_operand : (Call.mk .start (some 0)).wf = false := by decide
theorem test_wf_stop_operand : (Call.mk .stop (some 0)).wf = false := by decide
theorem test_wf_receiveByte_operand : (Call.mk .receiveByte (some 0)).wf = false := by decide
theorem test_wf_waitAck_operand : (Call.mk .waitAck (some 0)).wf = false := by decide
theorem test_wf_receiveAck_operand : (Call.mk .receiveAck (some 0)).wf = false := by decide
theorem test_wf_accepts :
    (Call.mk .sendByte (some 255)).wf = true ∧ (Call.mk .sendAck (some 1)).wf = true ∧
      (Call.mk .init none).wf = true := by decide

/-! ## Decoding words written out from R80 to R84 (spec/95_test_vectors.md D-ENC) -/

/-- `0x0FF`, op `000`. -/
theorem test_decode_init : decode 0b00011111111 = .init := by decide
/-- `0x1A5`, op `001`. -/
theorem test_decode_start : decode 0b00110100101 = .start := by decide
/-- `0x201`, op `010`. -/
theorem test_decode_stop : decode 0b01000000001 = .stop := by decide
/-- `0x301` and `0x3A5`, op `011`: no bit of the operand dropped or turned round. -/
theorem test_decode_sendByte :
    decode 0b01100000001 = .sendByte 1 ∧ decode 0b01110100101 = .sendByte 0xA5 := by decide
/-- `0x4FF`, op `100`. -/
theorem test_decode_receiveByte : decode 0b10011111111 = .receiveByte := by decide
/-- `0x580`, op `101`. -/
theorem test_decode_waitAck : decode 0b10110000000 = .waitAck := by decide
/-- `0x6FE` and `0x603`, op `110`: only bit 0 of `arg` counts. -/
theorem test_decode_sendAck :
    decode 0b11011111110 = .sendAck 0 ∧ decode 0b11000000011 = .sendAck 1 := by decide
/-- `0x7FF`, op `111`. -/
theorem test_decode_receiveAck : decode 0b11111111111 = .receiveAck := by decide

/-- A number of 12 bits is no command word (log 15). -/
theorem test_decode_wide :
    decodeTableWord 16 0x800 = none ∧ decodeTableWord 16 0x7FF = some .receiveAck ∧
      decodeTableWord 8 0x3C = some .init := by decide

/-! ## The assembler (R89, R90; S6, D-ENC) -/

/-- S6: the source's scenario, words of P2. -/
theorem test_assemble_scenario :
    assemble "init(); start(); sendByte(0x3C); receiveAck();\nstop();".toList =
      some [0x000, 0x100, 0x33C, 0x700, 0x200] := by decide +kernel

/-- D-ENC: the four refusals. -/
theorem test_assemble_refusals :
    assemble "sendByte(256);".toList = none ∧ assemble "sendAck(2);".toList = none ∧
      assemble "sendbyte(1);".toList = none ∧ assemble "start;".toList = none := by decide +kernel

/-- R90: a decimal operand, and the rest of the eight commands. -/
theorem test_assemble_decimal :
    assemble "sendByte(255); receiveByte(); waitAck(); sendAck(1);".toList = some [0x3FF, 0x400, 0x500, 0x601] := by
  decide +kernel

/-- R91: the names of the two acknowledge values, for `sendAck` alone. -/
theorem test_assemble_ack_names :
    assemble "sendAck(ACK); sendAck(NACK);".toList = some [0x600, 0x601] ∧
      assemble "sendByte(ACK);".toList = none := by decide +kernel

/-- R83: the disassembler drops ignored bits. -/
theorem test_disassemble : disassemble [0x6FE, 0x33C] = "sendAck(0);sendByte(0x3C);".toList := by decide +kernel

/-! ## The pin driver (D-PIN) -/

theorem test_writeClock : seen (performMicro (.writeClock .high) (idleAt .low .high)) = (.high, .high, [.clock .high]) := by
  decide
theorem test_writeData : seen (performMicro (.writeData .low) (idleAt .low .high)) = (.low, .low, [.data .low]) := by
  decide
/-- The four rows of `ReadData` with Data released and driven. -/
theorem test_readData :
    sdaLine (idleAt .high .high) .high = .high ∧ sdaLine (idleAt .high .high) .low = .low ∧
      sdaLine (idleAt .high .low) .high = .low ∧ sdaLine (idleAt .high .low) .low = .low := by decide

/-! ## The commands -/

/-- D-INIT, third row: entered with both lines `LOW`. -/
theorem test_init_captured :
    nextOf seen (exec .init (idleAt .low .low)) =
      some (.high, .high, [.openDrain, .clock .high, .data .high, .initDelay, .response 0x00]) := by decide
/-- D-INIT, first row: from reset. -/
theorem test_init_reset :
    nextOf (fun t => (t.cfg, t.phase, t.busy, t.rspValid)) (exec .init State.reset) = some (true, .idle, false, true) := by
  decide
/-- D-SS, first row. -/
theorem test_start :
    nextOf seen (exec .start (idleAt .high .high)) =
      some (.low, .low, [.clock .high, .data .high, .data .low, .clock .low, .response 0x00]) := by decide
/-- D-SS, third row: a STOP edge, then a START edge. -/
theorem test_start_edges :
    nextOf (fun t => (masterStarts (.low, .low) t.trace, masterStops (.low, .low) t.trace))
      (exec .start (idleAt .low .low)) = some (1, 1) := by decide
/-- D-SS, fifth row. -/
theorem test_stop :
    nextOf seen (exec .stop (idleAt .low .high)) =
      some (.high, .high, [.clock .high, .data .low, .data .high, .response 0x00]) := by decide
/-- D-SS, fourth and fifth row: the START edge is there only when Data is released at entry. -/
theorem test_stop_edges :
    nextOf (fun t => masterStarts (.low, .high) t.trace) (exec .stop (idleAt .low .high)) = some 1 ∧
      nextOf (fun t => masterStarts (.low, .low) t.trace) (exec .stop (idleAt .low .low)) = some 0 := by decide
/-- D-TX, `0x01`: the 1 is sent last and Data stays released. -/
theorem test_sendByte_one :
    nextOf seen (exec (.sendByte 0x01) (idleAt .low .low)) =
      some (.low, .high, [.data .low, .clock .high, .clock .low, .data .low, .clock .high, .clock .low,
        .data .low, .clock .high, .clock .low, .data .low, .clock .high, .clock .low, .data .low, .clock .high,
        .clock .low, .data .low, .clock .high, .clock .low, .data .low, .clock .high, .clock .low, .data .high,
        .clock .high, .clock .low, .response 0x00]) := by decide +kernel
/-- D-TX, `0x78`: the levels in the eight clock pulses. -/
theorem test_sendByte_levels :
    nextOf (fun t => clockedLevels (.low, .low) t.trace) (exec (.sendByte 0x78) (idleAt .low .low)) =
      some [.low, .high, .high, .high, .high, .low, .low, .low] := by decide +kernel
/-- D-RX, `0x01`: the first sample lands in bit 7, the last in bit 0; two draws of the script are left. -/
theorem test_receiveByte_one :
    nextOf (fun t => (t.rspData, t.sclDrv, t.sdaDrv, t.inp.sdaEnv))
      (exec .receiveByte (scripted .low .low [.low, .low, .low, .low, .low, .low, .low, .high, .low, .high])) =
      some (0x01, .low, .high, [.low, .high]) := by decide +kernel
/-- D-RX, corner: what the buffer held before does not leak. -/
theorem test_receiveByte_cleared :
    nextOf (fun t => t.rspData)
      (exec .receiveByte { scripted .low .low [.low, .low, .low, .low, .low, .low, .low, .low] with shReg := 0xFF }) =
      some 0x00 := by decide +kernel
/-- D-ACK, rows 1 and 2: Data is not touched. -/
theorem test_waitAck :
    nextOf seen (exec .waitAck (idleAt .low .low)) =
        some (.low, .low, [.clock .high, .clock .low, .response 0x00]) ∧
      nextOf (fun t => t.sdaDrv) (exec .waitAck (idleAt .low .high)) = some .high := by decide
/-- D-ACK, `sendAck(0)`. -/
theorem test_sendAck_ack :
    nextOf seen (exec (.sendAck 0) (idleAt .low .high)) =
      some (.low, .low, [.data .low, .clock .high, .clock .low, .response 0x00]) := by decide
/-- D-ACK, `sendAck(1)`. -/
theorem test_sendAck_nack :
    nextOf seen (exec (.sendAck 1) (idleAt .low .low)) =
      some (.low, .high, [.data .high, .clock .high, .clock .low, .response 0x00]) := by decide
/-- D-ACK, `receiveAck` with the slave acknowledging. -/
theorem test_receiveAck_ack :
    nextOf seen (exec .receiveAck (scripted .low .low [.low])) =
      some (.low, .high, [.data .high, .clock .high, .read .low, .clock .low, .response 0x00]) := by decide
/-- D-ACK, `receiveAck` with no acknowledge. -/
theorem test_receiveAck_nack :
    nextOf seen (exec .receiveAck (scripted .low .low [.high])) =
      some (.low, .high, [.data .high, .clock .high, .read .high, .clock .low, .response 0x01]) := by decide

/-- D-INIT, last row: refused before `init`. -/
theorem test_refused_before_init : isRefused (exec .start State.reset) = true := by decide

/-! ## The step -/

/-- The word placed by `withFetchWord` is the one the next step runs (log 15). -/
theorem test_withFetchWord :
    nextOf (fun t => (t.cmdReg, t.trace)) (step ((idleAt .low .high).withFetchWord 16 0x6FE)) =
      some (0x6FE, [.data .low, .clock .high, .clock .low, .response 0x00]) := by decide +kernel

/-- R252: reset in the middle of `start`, between `D0` and `C0`. -/
theorem test_reset_in_start :
    nextOf (fun t => (seen t, t.busy, t.upc)) (step { running 0x100 3 [⟨true, true, true⟩] with sdaDrv := .low }) =
      some ((.high, .high, []), false, 0) := by decide

/-- R113: the settle delay is not answered, so the micro-operation has begun and not ended. -/
theorem test_delay_waits :
    nextOf (fun t => (seen t, t.upc, t.dlyPending)) (step (running 0x100 0 [⟨false, false, false⟩])) =
      some ((.high, .high, [.clock .high]), 0, some .settle) := by decide

/-- R233: the pulse is there before the micro-operation begins, also when it will be answered at once, and gone while the
block waits; `dly_kind` is 0 for a pin operation and 1 for the delay of `init`. -/
theorem test_delay_pulse :
    (outPorts (running 0x100 0 [⟨false, true, false⟩])).dlyReq = true ∧
      (outPorts (running 0x100 0 [])).dlyKind = 0 ∧ (outPorts (running 0x000 3 [])).dlyKind = 1 ∧
      nextOf (fun t => (outPorts t).dlyReq) (step (running 0x100 0 [⟨false, false, false⟩])) = some false := by decide

/-- R113, R233: the answer ends a waiting micro-operation; it adds no event and moves no line again. -/
theorem test_delay_answered :
    nextOf (fun t => (t.trace, t.upc, t.dlyPending, t.sclDrv))
      (step { running 0x100 0 [⟨false, true, false⟩] with dlyPending := some .settle, sclDrv := .high }) =
      some ([], 1, none, .high) := by decide

/-- R85: a word presented with `cmd_valid = 0` is not accepted. -/
theorem test_cmd_valid_low :
    nextOf (fun t => (t.busy, t.inp.cmds, t.trace)) (step (queued [0x200] [⟨false, true, false⟩])) =
      some (false, [0x200], []) := by decide

/-- R253: reset in `stop`, between `D0` and `D1`, is a STOP edge; with Data released it is none. -/
theorem test_reset_stop_edge :
    nextOf (stepMasterStops { running 0x200 2 [⟨true, false, false⟩] with sclDrv := .high, sdaDrv := .low })
        (step { running 0x200 2 [⟨true, false, false⟩] with sclDrv := .high, sdaDrv := .low }) = some 1 ∧
      nextOf (stepMasterStops (running 0x200 2 [⟨true, false, false⟩]))
        (step (running 0x200 2 [⟨true, false, false⟩])) = some 0 := by decide

/-! ## Witnesses: a state and operands that meet the hypotheses of each obligation -/

/-- `rst = 0`, `dly_done = 1`, `cmd_valid = 1`. -/
def calm : Pins := ⟨false, true, true⟩

/-- The invariant of a configured block between commands. -/
theorem inv_of_idle (s : State) (hb : s.busy = false) (hd : s.dlyPending = none) (hc : s.cfg = true)
    (hp : s.phase ≠ .uninit) : Inv s where
  busyShape := by simp [BusyShape, hb]
  delayShape := by simp [DelayShape, hb, hd]
  configShape := by simp [ConfigShape, hb, hc, hp]
  readShape := by simp [ReadShape, hb]
  sendShape := by simp [SendShape, hb]

theorem decode_start : decode 256#11 = .start := by decide

/-- The invariant of a configured block in the middle of `start`. -/
theorem inv_running_start (upc : BitVec 5) (pins : List Pins) (h : upc.toNat < 4) : Inv (running 0x100 upc pins) where
  busyShape := fun _ => ⟨(show lenOf (decode 0x100) = 4 by decide) ▸ h, rfl⟩
  delayShape := by simp [DelayShape, running, queued, idleAt, State.reset]
  configShape := by simp [ConfigShape, running, queued, idleAt]
  readShape := by simp [ReadShape, running, queued, idleAt, State.reset]
  sendShape := by simp [SendShape, running, decode_start]

/-- The same waiting for the settle delay of its first micro-operation. -/
def waiting (pins : List Pins) : State := { running 0x100 0 pins with dlyPending := some .settle }

theorem inv_waiting (pins : List Pins) : Inv (waiting pins) where
  busyShape := fun _ => ⟨by simp [waiting, running, decode_start, lenOf, seqOf, startSeq], rfl⟩
  delayShape := by simp [DelayShape, waiting, running, decode_start, seqOf, startSeq, MicroOp.delay]
  configShape := by simp [ConfigShape, waiting, running, queued, idleAt]
  readShape := by simp [ReadShape, waiting, running, queued, idleAt]
  sendShape := by simp [SendShape, waiting, running, decode_start]

/-- The same waiting for the settle delay of its last micro-operation. -/
def waitingLast (pins : List Pins) : State := { running 0x100 3 pins with dlyPending := some .settle }

theorem inv_waitingLast (pins : List Pins) : Inv (waitingLast pins) where
  busyShape := by simp [BusyShape, waitingLast, running, decode_start, lenOf, seqOf, startSeq, queued, idleAt, State.reset]
  delayShape := by simp [DelayShape, waitingLast, running, decode_start, seqOf, startSeq, MicroOp.delay]
  configShape := by simp [ConfigShape, waitingLast, running, queued, idleAt]
  readShape := by simp [ReadShape, waitingLast, running, queued, idleAt, State.reset]
  sendShape := by simp [SendShape, waitingLast, running, decode_start]

theorem witness_DecodeEncodeRoundTrip : (Instr.sendByte 0xFF).wf = true ∧ (Instr.sendAck 1).wf = true := by decide
theorem witness_EveryWordDecodes : 2047 < 65536 ∧ 2048 < 65536 ∧ 0 < 65536 := by decide
theorem witness_AssemblerAcceptsExactlyRange :
    (∀ m : Mnemonic, m ∈ [Mnemonic.init, .start, .stop, .receiveByte, .waitAck, .receiveAck] →
      m ≠ .sendByte ∧ m ≠ .sendAck) ∧
    (callInstr ⟨.sendByte, some 255⟩).isSome = true ∧ (callInstr ⟨.sendByte, some 256⟩).isSome = false ∧
    (callInstr ⟨.sendAck, some 1⟩).isSome = true ∧ (callInstr ⟨.sendAck, some 2⟩).isSome = false := by decide
theorem witness_ResetWinsAtOnce :
    (running 0x100 3 [⟨true, true, true⟩, calm]).inp.pins = [⟨true, true, true⟩, calm] := by decide
theorem witness_DataLineLevel :
    (idleAt .low .low).sdaDrv = .low ∧ (idleAt .low .high).sdaDrv = .high := by decide
theorem witness_ReadDataEffect :
    (performMicro (.readData (.shReg 0)) (scripted .high .high [.high])).shReg = 0x80 ∧
    (performMicro (.readData (.shReg 7)) (scripted .high .high [.high])).shReg = 0x01 ∧
    (performMicro (.readData (.shReg 7)) (scripted .high .high [.low])).shReg = 0x00 ∧
    (performMicro (.readData .ackReg) (scripted .high .high [.high])).ackReg = 1 := by decide
/-- The three clauses: Data held `LOW` with Clock `HIGH`; Data released with Clock `LOW`, and with Clock `HIGH`. -/
theorem witness_ResetStopEdge :
    ({ running 0x200 2 [⟨true, false, false⟩] with sclDrv := .high, sdaDrv := .low } : State).inp.pins =
      [⟨true, false, false⟩] ∧
    driveOf { running 0x200 2 [⟨true, false, false⟩] with sclDrv := .high, sdaDrv := .low } = (.high, .low) ∧
    (running 0x200 2 [⟨true, false, false⟩]).inp.pins = [⟨true, false, false⟩] ∧
    driveOf (running 0x200 2 [⟨true, false, false⟩]) = (.low, .high) ∧
    driveOf { running 0x200 0 [⟨true, false, false⟩] with sclDrv := .high } = (.high, .high) := by decide
/-- The clauses: idle, waiting, and the first and last index of `init` (no request, and `INIT`) and of `start`. -/
theorem witness_DelayRequestPulse :
    (idleAt .low .low).busy = false ∧ (waiting [calm]).dlyPending.isSome = true ∧
    (∀ w ∈ [(0x000 : CmdWord), 0x100], ∀ u ∈ [(0 : BitVec 5), 3],
      (running w u [⟨false, false, true⟩]).busy = true ∧ (running w u [⟨false, false, true⟩]).dlyPending = none ∧
      (running w u [⟨false, false, true⟩]).inp.pins = [⟨false, false, true⟩]) ∧
    (seqOf (decode 0x000))[(0 : BitVec 5).toNat]? = some .configOpenDrain ∧
    (seqOf (decode 0x000))[(3 : BitVec 5).toNat]? = some .delayInit ∧
    (seqOf (decode 0x100))[(0 : BitVec 5).toNat]? = some (.writeClock .high) ∧
    (seqOf (decode 0x100))[(3 : BitVec 5).toNat]? = some (.writeClock .low) := by decide
theorem witness_ConfigAndInitDelayEffect : State.reset.dlyPending = none := by decide
theorem witness_OneLineChangesPerEvent :
    admitted (idleAt .low .low) .start = true ∧ admitted State.reset .init = true ∧
    (driveHistory (.low, .low) [.clock .high, .data .high])[1]? = some (.high, .low) ∧
    (driveHistory (.low, .low) [.clock .high, .data .high])[2]? = some (.high, .high) := by decide
theorem witness_MicroOperationTable : (0 < 8 ∧ 7 < 8) ∧ (idleAt .low .low).shReg = 0 := by decide
theorem witness_StartCommandResult : (idleAt .low .low).cfg = true := by decide
theorem witness_StopCommandResult : (idleAt .high .high).cfg = true := by decide
theorem witness_SendByteCommandResult : (idleAt .low .high).cfg = true := by decide
theorem witness_ReceiveByteCommandResult : (scripted .low .low [.high]).cfg = true := by decide
theorem witness_WaitAckCommandResult : (idleAt .low .low).cfg = true := by decide
theorem witness_SendAckCommandResult : (idleAt .low .high).cfg = true := by decide
theorem witness_ReceiveAckCommandResult :
    (scripted .low .low [.low]).cfg = true ∧ envLevel (scripted .low .low [.low]) = .low ∧
    envLevel (scripted .low .low [.high]) = .high := by decide
theorem witness_AdmissionByCfg :
    State.reset.cfg = false ∧ Instr.start ≠ .init ∧ (idleAt .low .low).cfg = true := by decide
theorem witness_LineLevelsAfterCommand : admitted (idleAt .high .low) (.sendByte 1) = true := by decide
theorem witness_OneResponsePerCommand :
    admitted (idleAt .low .low) .receiveByte = true ∧ admitted State.reset .init = true := by decide
theorem witness_ReceiveReturnsSlaveByte :
    (0 < 8 ∧ 7 < 8) ∧ (scripted .low .low (samplesOfByte 0xA5 ++ [.low])).cfg = true ∧
    (scripted .low .low (samplesOfByte 0xA5 ++ [.low])).inp.sdaEnv = samplesOfByte 0xA5 ++ [.low] := by decide
theorem witness_SendPutsBitsOnLine : (idleAt .low .high).cfg = true ∧ (idleAt .low .high).sclDrv = .low := by decide
theorem witness_DataStableInTransferCommands :
    (idleAt .low .low).cfg = true ∧ (idleAt .low .low).sclDrv = .low ∧ (idleAt .high .low).sclDrv = .high ∧
    (∀ i ∈ [Instr.sendByte 0, .receiveByte, .waitAck, .sendAck 0, .receiveAck],
      i ≠ .init ∧ i ≠ .start ∧ i ≠ .stop) := by decide
theorem witness_ReadsOnlyWhileReleased : admitted (idleAt .low .low) .receiveAck = true := by decide
theorem witness_StartEdges :
    (idleAt .low .low).cfg = true ∧ (idleAt .low .low).sdaDrv = .low ∧ (idleAt .low .high).sdaDrv = .high := by decide
theorem witness_StopEdges :
    (idleAt .low .low).cfg = true ∧ (idleAt .low .low).sdaDrv = .low ∧ (idleAt .low .high).sdaDrv = .high := by decide
theorem witness_StartThenStopFromIdle :
    (idleAt .high .high).cfg = true ∧ driveOf (idleAt .high .high) = (.high, .high) := by decide
theorem witness_NackLeavesStateOfAck : (scripted .low .low []).cfg = true := by decide
theorem witness_PathIndependentOfState :
    admitted (scripted .low .low [.low]) .receiveAck = true ∧
    admitted (scripted .high .high [.high]) .receiveAck = true := by decide
theorem witness_UnspecifiedRegistersNotRead :
    Ready (queued [0x700, 0x200] []) ∧ (queued [0x700, 0x200] []).inp.cmds = [0x700, 0x200] ∧
    admitted (queued [0x700, 0x200] []) (decode 0x700) = true ∧ decode 0x700 = .receiveAck :=
  ⟨⟨rfl, rfl⟩, rfl, rfl, by decide⟩
theorem witness_StepRunsPresentedCommand :
    Ready (queued [0x200] []) ∧ (queued [0x200] []).inp.cmds = [0x200] := ⟨⟨rfl, rfl⟩, rfl⟩
/-- Both clauses: no pins; a word presented with `cmd_valid = 0`; `cmd_valid = 1` and no word. -/
theorem witness_IdleBlockWaits :
    (Ready (queued [] []) ∧ (queued [] []).inp.cmds = []) ∧
    ((queued [0x200] [⟨false, true, false⟩]).busy = false ∧
      (queued [0x200] [⟨false, true, false⟩]).inp.pins = [⟨false, true, false⟩]) ∧
    ((queued [] [calm]).inp.pins = [calm] ∧ calm.rst = false ∧ (queued [] [calm]).inp.cmds = []) :=
  ⟨⟨⟨rfl, rfl⟩, rfl⟩, ⟨rfl, rfl⟩, rfl, rfl, rfl⟩
/-- One for each clause: `sendByte`, `receiveByte`, and the opcodes on either side of the two. -/
theorem witness_AcceptLoadsSequencer :
    (∀ w ∈ [(0x200 : CmdWord), 0x300, 0x3FF, 0x400, 0x4FF, 0x500],
      (queued [w] [calm]).inp.pins = [calm] ∧ (queued [w] [calm]).busy = false ∧
      (queued [w] [calm]).inp.cmds = [w] ∧ admitted (queued [w] [calm]) (decode w) = true) ∧
    calm.rst = false ∧ calm.cmdValid = true ∧
    opField 0x300 = 3 ∧ opField 0x3FF = 3 ∧ opField 0x400 = 4 ∧ opField 0x4FF = 4 ∧ opField 0x200 = 2 ∧
    opField 0x500 = 5 := by decide
theorem witness_BusyBlockIgnoresCommandPort :
    (running 0x100 0 [calm]).busy = true ∧ NoReset (running 0x100 0 [calm]) :=
  ⟨rfl, fun p h => by cases h; rfl⟩
/-- Beginning and answered at once, at the last index but one and at the last; waiting and answered, at the first index
and at the last; each with an answer on the pins, and with no pins left. -/
theorem witness_MicroStepAdvancesOrCompletes :
    (∀ pins : List Pins,
      Inv (running 0x100 2 pins) ∧ Inv (running 0x100 3 pins) ∧ Inv (waiting pins) ∧ Inv (waitingLast pins)) ∧
    (∀ pins ∈ [[], [calm]],
      (running 0x100 2 pins).dlyPending = none ∧ (waiting pins).dlyPending.isSome = true ∧
      (waitingLast pins).dlyPending.isSome = true ∧ (waitingLast pins).inp.pins = pins) ∧
    calm.rst = false ∧ calm.dlyDone = true ∧ (running 0x100 2 []).busy = true ∧
    (seqOf (decode 0x100))[(2 : BitVec 5).toNat]? = some (.writeData .low) ∧
    (seqOf (decode 0x100))[(3 : BitVec 5).toNat]? = some (.writeClock .low) ∧
    (running 0x100 2 []).upc.toNat + 1 < lenOf (decode 0x100) ∧
    (running 0x100 3 []).upc.toNat + 1 = lenOf (decode 0x100) ∧
    (waiting []).upc.toNat + 1 < lenOf (decode 0x100) ∧ (waitingLast []).upc.toNat + 1 = lenOf (decode 0x100) :=
  ⟨fun pins => ⟨inv_running_start 2 pins (by decide), inv_running_start 3 pins (by decide), inv_waiting pins,
    inv_waitingLast pins⟩, by decide⟩
theorem witness_UnansweredDelayHoldsBlock :
    Inv (waiting [⟨false, false, true⟩, ⟨false, false, false⟩, calm]) ∧
    (waiting [⟨false, false, true⟩, ⟨false, false, false⟩, calm]).busy = true ∧
    (waiting [⟨false, false, true⟩, ⟨false, false, false⟩, calm]).dlyPending.isSome = true ∧
    (∀ p ∈ [(⟨false, false, true⟩ : Pins), ⟨false, false, false⟩], p.rst = false ∧ p.dlyDone = false) :=
  ⟨inv_waiting _, rfl, rfl, by decide⟩
theorem witness_MicroStepsComposeCommand :
    Ready (queued [0x3A5] []) ∧ (queued [0x3A5] []).dlyPending = none ∧ (queued [0x3A5] []).inp.cmds = [0x3A5] ∧
    calm.rst = false ∧ calm.cmdValid = true := ⟨⟨rfl, rfl⟩, rfl, rfl, rfl, rfl⟩
/-- Both clauses: reset clears `CFG`; `init` from reset sets it. -/
theorem witness_CfgChangesOnlySo :
    nextOf (fun t => t.cfg) (step (queued [] [⟨true, true, true⟩])) = some false ∧
    (queued [] [⟨true, true, true⟩]).cfg = true ∧
    nextOf (fun t => t.cfg) (step (withCommands [.init] State.reset)) = some true := by decide +kernel
/-- A phase change by reset and by each of the three commands. -/
theorem witness_PhaseChangesOnlySo :
    nextOf (fun t => t.phase) (step (queued [] [⟨true, true, true⟩])) = some .uninit ∧
    nextOf (fun t => t.phase) (step (withCommands [.init] State.reset)) = some .idle ∧
    nextOf (fun t => t.phase) (step (queued [0x200] [])) = some .idle ∧
    nextOf (fun t => t.phase) (step { queued [0x100] [] with phase := .idle }) = some .captured := by decide +kernel
theorem witness_TraceOnlyGrows :
    nextOf (fun t => t.trace) (step (queued [0x500] [])) = some [.clock .high, .clock .low, .response 0x00] ∧
    nextOf (fun t => t.trace) (step { queued [] [⟨true, true, true⟩] with trace := [.openDrain] }) = some [] := by
  decide +kernel
theorem witness_NoFaultAndRefusalOnlyBeforeInit : isRefused (step (withCommands [.start] State.reset)) = true := by
  decide +kernel
theorem witness_InvariantKeptByStep :
    Inv (queued [0x200] []) ∧ nextOf (fun t => t.phase) (step (queued [0x200] [])) = some .idle ∧
    Inv (waiting [calm]) ∧ nextOf (fun t => t.upc) (step (waiting [calm])) = some 1 :=
  ⟨inv_of_idle _ rfl rfl rfl (by decide), by decide +kernel, inv_waiting _, by decide +kernel⟩
theorem witness_UnitsKeepDataStable :
    Ready (idleAt .low .low) ∧ (idleAt .low .low).cfg = true ∧ (idleAt .low .low).sclDrv = .low :=
  ⟨⟨rfl, rfl⟩, rfl, rfl⟩
theorem witness_SessionsEndBusIdle : Ready State.reset := ⟨rfl, rfl⟩

end Sys2Proof.Tests
end

section
/-! The level of the Data line (spec/20_memory.md R54). -/

namespace Sys2Proof.Machine

/-- With Data held LOW by the block, the line is LOW whatever the environment does (R54); the other case is
`sdaLine_released`. -/
theorem sdaLine_held_low (s : State) (env : Level) (h : s.sdaDrv = .low) : sdaLine s env = .low := by
  simp [sdaLine, h]

/-- Settles O11: a held line is LOW, a released one is at the environment's level. -/
theorem dataLineLevel : Obligations.DataLineLevel := by
  intro s env
  have released (l : Level) (hdrv : s.sdaDrv = .high) (henv : env = l) : sdaLine s env = l :=
    (sdaLine_released s env hdrv).trans henv
  exact ⟨sdaLine_held_low s env, released .low, released .high⟩

end Sys2Proof.Machine
end

section
/-! The fields of a command word under the decoder and the encoder (spec/30_encoding.md R80 to R84). -/

namespace Sys2Proof

@[simp] theorem opField_append (op : BitVec 3) (arg : Byte) : opField (op ++ arg) = op :=
  BitVec.extractLsb'_append_eq_left

@[simp] theorem argField_append (op : BitVec 3) (arg : Byte) : argField (op ++ arg) = arg :=
  BitVec.extractLsb'_append_eq_right

theorem opField_append_argField (w : CmdWord) : opField w ++ argField w = w :=
  BitVec.extractLsb'_append_extractLsb' (w := 3) (len := 8)

theorem extractLsb'_zero_one_eq_ofBool (arg : Byte) : arg.extractLsb' 0 1 = BitVec.ofBool (arg.getLsbD 0) := by
  ext i hi
  obtain rfl : i = 0 := by omega
  simp

/-- The command `decode` picks has the opcode of the word's `op` field (R81); the last branch of `decode` is op 7, since
`op` has three bits. -/
@[simp] theorem opcode_decode (w : CmdWord) : opcode (decode w) = opField w := by
  have hlt : (opField w).toNat < 8 := (opField w).isLt
  apply BitVec.eq_of_toNat_eq
  unfold decode
  split <;> simp only [opcode, BitVec.ofNat_eq_ofNat, BitVec.toNat_ofNat]
  case h_8 =>
    simp only [imp_false] at *
    omega
  all_goals omega

/-- A word that carries no `arg` is its opcode shifted to the `op` field, R84's `op << 8`. -/
theorem append_zero_arg (op : BitVec 3) : op ++ (0 : Byte) = op.setWidth 11 <<< 8 := by
  have h := BitVec.setWidth_append_eq_shiftLeft_setWidth_or (b := op) (b' := (0 : Byte)) (w'' := 11)
  simpa using h

/-- The mask `0x700` keeps the `op` field and clears `arg`. -/
theorem and_opMask (w : CmdWord) : w &&& 0x700 = opField w ++ (0 : Byte) := by
  calc w &&& 0x700 = (opField w ++ argField w) &&& (BitVec.allOnes 3 ++ 0#8) := by rw [opField_append_argField]; rfl
    _ = (opField w &&& BitVec.allOnes 3) ++ (argField w &&& 0#8) := BitVec.and_append
    _ = opField w ++ (0 : Byte) := by rw [BitVec.and_allOnes, BitVec.and_zero]; rfl

/-- The encoder written with R84's shift and or. -/
theorem encode_eq_or (i : Instr) :
    encode i = (opcode i).setWidth 11 <<< 8 ||| (canonicalArg i).setWidth 11 := by
  have h := BitVec.setWidth_append_eq_shiftLeft_setWidth_or (b := opcode i) (b' := canonicalArg i) (w'' := 11)
  simpa [encode] using h

theorem encode_sendByte (v : Byte) : encode (.sendByte v) = 0x300 ||| v.setWidth 11 :=
  encode_eq_or (.sendByte v)

theorem encode_sendAck (b : Bit) : encode (.sendAck b) = 0x600 ||| b.setWidth 11 := by
  rw [encode_eq_or, canonicalArg, BitVec.setWidth_setWidth (by decide)]
  rfl

/-- R84's match: the `op` field alone decides the opcode, and `0x700` keeps exactly that field. -/
theorem opcode_decode_eq_iff (w : CmdWord) (i : Instr) :
    opcode (decode w) = opcode i ↔ w &&& (0x700 : CmdWord) = (opcode i).setWidth 11 <<< 8 := by
  rw [opcode_decode, and_opMask, ← append_zero_arg]
  constructor
  · intro h
    rw [h]
  · intro h
    simpa using congrArg opField h

/-- Settles O4: the operand-free words and masks are closed facts, the two commands with an operand are
`encode_sendByte` and `encode_sendAck`, and the match is `opcode_decode_eq_iff`. -/
theorem canonicalWordsAndMasks : Obligations.CanonicalWordsAndMasks :=
  ⟨by decide, encode_sendByte, encode_sendAck, by decide, fun _ => rfl, fun _ => rfl, opcode_decode_eq_iff⟩

/-- Only bit 0 of `arg` is `sendAck`'s operand (R82). -/
theorem decode_sendAck_word (arg : Byte) : decode (6#3 ++ arg) = .sendAck (BitVec.ofBool (arg.getLsbD 0)) := by
  simp [decode, extractLsb'_zero_one_eq_ofBool]

/-- Settles O3: `opField_append` selects the branch of `decode`, and `argField_append` gives it the operand. -/
theorem operandsTakenFromArg : Obligations.OperandsTakenFromArg := by
  intro arg
  refine ⟨?_, ?_, ?_, ?_, ?_, ?_, decode_sendAck_word arg, ?_⟩ <;> simp [decode]

end Sys2Proof
end

section
/-! The two pin writes of the driver as the elementary updates they are made of (spec/40_pin_driver.md R110, R111). -/

namespace Sys2Proof.Machine

/-- A micro-operation's request, once answered, leaves nothing behind (R113). -/
@[simp] theorem advance_requestDelay (k : DelayKind) (s : State) : advance (requestDelay k s) = advance s := rfl

@[simp] theorem beginMicro_writeClock (l : Level) (s : State) :
    beginMicro (.writeClock l) s = requestDelay .settle (emit (.clock l) (setScl l s)) := rfl

@[simp] theorem beginMicro_writeData (l : Level) (s : State) :
    beginMicro (.writeData l) s = requestDelay .settle (emit (.data l) (setSda l s)) := rfl

@[simp] theorem performMicro_writeClock (l : Level) (s : State) :
    performMicro (.writeClock l) s = advance (emit (.clock l) (setScl l s)) := by
  rw [performMicro, beginMicro_writeClock, advance_requestDelay]

@[simp] theorem performMicro_writeData (l : Level) (s : State) :
    performMicro (.writeData l) s = advance (emit (.data l) (setSda l s)) := by
  rw [performMicro, beginMicro_writeData, advance_requestDelay]

/-- Settles O13: up to its delay the write is a drive, an event and a request; the answered request adds only the step of
`UPC`. Each of these updates writes the one field the statement names. -/
theorem writeClockEffect : Obligations.WriteClockEffect :=
  fun l s => ⟨beginMicro_writeClock l s, performMicro_writeClock l s⟩

/-- Settles O14: the same updates, with the Data line's drive and event. -/
theorem writeDataEffect : Obligations.WriteDataEffect :=
  fun l s => ⟨beginMicro_writeData l s, performMicro_writeData l s⟩

end Sys2Proof.Machine
end

section
/-! Counts and drive histories over events that are not edges, or move no line (spec/20_memory.md R65, R66). -/

namespace Sys2Proof.Machine

/-- Every master START edge is a `D0` event (R66), so events without `D0` make none. -/
theorem masterStarts_eq_zero (p : Drive) (es : List Event) (h : .data .low ∉ es) : masterStarts p es = 0 := by
  unfold masterStarts
  induction es generalizing p with
  | nil => rfl
  | cons e es ih =>
    have hedge : isMasterStart p e = false := by simp [isMasterStart, (List.ne_of_not_mem_cons h).symm]
    simp [countEvents, hedge, ih _ (List.not_mem_of_not_mem_cons h)]

/-- If no event moves the drive pair it begins at, a drive history stays at that pair. -/
theorem driveHistory_fixed (p : Drive) (es : List Event) (h : ∀ e ∈ es, driveAfter p e = p) :
    ∀ d ∈ driveHistory p es, d = p := by
  induction es with
  | nil => simp [driveHistory]
  | cons e es ih =>
    obtain ⟨he, hes⟩ := List.forall_mem_cons.mp h
    simpa [driveHistory, he] using ih hes

end Sys2Proof.Machine
end

section
/-! The command `init`: the state it leaves, field by field, and what a bus monitor sees of it (spec/41_init.md R131 to
R133). -/

namespace Sys2Proof.Machine

open Sys2Proof.Safety

/-- The state `init` leaves: accepted, its four micro-operations performed, completed (R131). -/
def afterInit (s : State) : State := initFinish (performAll initSeq (occupy s))

/-- The five events of `init` (R131). -/
def initEvents : List Event := [.openDrain, .clock .high, .data .high, .initDelay, .response 0x00]

variable (s : State)

/-- `init` is admitted in every state (R130). -/
theorem exec_init : exec .init s = .next (afterInit s) := exec_next .init s rfl

@[simp] theorem afterInit_cfg : (afterInit s).cfg = true := rfl
@[simp] theorem afterInit_sclDrv : (afterInit s).sclDrv = .high := rfl
@[simp] theorem afterInit_sdaDrv : (afterInit s).sdaDrv = .high := rfl
@[simp] theorem afterInit_phase : (afterInit s).phase = .idle := rfl
@[simp] theorem afterInit_ackReg : (afterInit s).ackReg = s.ackReg := rfl
@[simp] theorem afterInit_inp : (afterInit s).inp = s.inp := rfl
@[simp] theorem driveOf_afterInit : driveOf (afterInit s) = (.high, .high) := rfl

theorem afterInit_answered : Answered s (afterInit s) 0x00 := ⟨rfl, rfl, rfl, rfl, rfl, rfl, rfl⟩

/-- Each of the four micro-operations adds its one event, and the completion adds the response. -/
theorem afterInit_trace : (afterInit s).trace = s.trace ++ initEvents := by
  simp [afterInit, initFinish, initSeq, performAll, performMicro, beginMicro_trace, microEvent, initEvents]

@[simp] theorem newEvents_afterInit : newEvents s (afterInit s) = initEvents := newEvents_of (afterInit_trace s)

/-- From released lines the events of `init` move neither (R132). -/
theorem driveAfter_initEvents_released : ∀ e ∈ initEvents, driveAfter (.high, .high) e = (.high, .high) := by decide

/-- The one Data write of `init` is `D1` with Clock already released: a STOP edge iff Data was held `LOW` (R133). -/
theorem masterStops_initEvents (scl sda : Level) :
    masterStops (scl, sda) initEvents = if sda = .low then 1 else 0 := by
  simp [masterStops, initEvents, countEvents, isMasterStop, driveAfter]

end Sys2Proof.Machine
end

section
/-! The obligations of spec/41_init.md. -/

namespace Sys2Proof.Machine

/-- Settles O20: the word and its operands are O4 and O3, the next state is `afterInit` by its field lemmas. -/
theorem initCommandResult : Obligations.InitCommandResult := by
  obtain ⟨⟨hword, -⟩, -⟩ := canonicalWordsAndMasks
  have hdecode (arg : Byte) : decode (0#3 ++ arg) = .init := (operandsTakenFromArg arg).1
  exact ⟨hword, hdecode, fun s => ⟨afterInit s, exec_init s, afterInit_cfg s, afterInit_sclDrv s, afterInit_sdaDrv s,
    afterInit_phase s, afterInit_trace s, afterInit_ackReg s, by rw [afterInit_inp], afterInit_answered s⟩⟩

/-- Settles O31: nothing `afterInit` says of `CFG`, the lines, `PHASE` and the new events mentions the state before, and
the second `init` begins with both lines released, where its events move none. -/
theorem initIdempotent : Obligations.InitIdempotent := by
  intro s
  have hstill : ∀ d ∈ driveHistory (.high, .high) initEvents, d = (.high, .high) :=
    driveHistory_fixed _ _ driveAfter_initEvents_released
  refine ⟨afterInit s, afterInit (afterInit s), exec_init s, exec_init _, ?_⟩
  simpa using hstill

/-- Settles O38: `init` has no `D0` event, and its `D1` is `masterStops_initEvents`. -/
theorem initEdges : Obligations.InitEdges := by
  intro s
  refine ⟨afterInit s, exec_init s, ?_⟩
  rw [newEvents_afterInit]
  exact ⟨masterStarts_eq_zero _ _ (by decide), masterStops_initEvents s.sclDrv s.sdaDrv⟩

end Sys2Proof.Machine
end

section
/-! The commands `start` and `stop`: the states they leave, field by field, and what a bus monitor sees of their events
(spec/42_start_stop.md R141 to R149). -/

namespace Sys2Proof.Machine

open Sys2Proof.Safety

/-- The state `start` leaves: accepted, its four micro-operations performed, completed (R141). -/
def afterStart (s : State) : State := startFinish (performAll startSeq (occupy s))

/-- The state `stop` leaves: accepted, its three micro-operations performed, completed (R145). -/
def afterStop (s : State) : State := stopFinish (performAll stopSeq (occupy s))

/-- The five events of `start` (R141). -/
def startEvents : List Event := [.clock .high, .data .high, .data .low, .clock .low, .response 0x00]

/-- The four events of `stop` (R145). -/
def stopEvents : List Event := [.clock .high, .data .low, .data .high, .response 0x00]

section Result
variable (s : State)

/-- `start` looks at `CFG` alone, and at nothing of the bus (R142). -/
theorem exec_start (hcfg : s.cfg = true) : exec .start s = .next (afterStart s) := exec_next .start s hcfg

/-- `stop` looks at `CFG` alone, and at nothing of the bus (R146). -/
theorem exec_stop (hcfg : s.cfg = true) : exec .stop s = .next (afterStop s) := exec_next .stop s hcfg

@[simp] theorem afterStart_cfg : (afterStart s).cfg = s.cfg := rfl
@[simp] theorem afterStart_sclDrv : (afterStart s).sclDrv = .low := rfl
@[simp] theorem afterStart_sdaDrv : (afterStart s).sdaDrv = .low := rfl
@[simp] theorem afterStart_phase : (afterStart s).phase = .captured := rfl
@[simp] theorem afterStart_ackReg : (afterStart s).ackReg = s.ackReg := rfl
@[simp] theorem afterStart_inp : (afterStart s).inp = s.inp := rfl

@[simp] theorem afterStop_cfg : (afterStop s).cfg = s.cfg := rfl
@[simp] theorem afterStop_sclDrv : (afterStop s).sclDrv = .high := rfl
@[simp] theorem afterStop_sdaDrv : (afterStop s).sdaDrv = .high := rfl
@[simp] theorem afterStop_phase : (afterStop s).phase = .idle := rfl
@[simp] theorem afterStop_ackReg : (afterStop s).ackReg = s.ackReg := rfl
@[simp] theorem afterStop_inp : (afterStop s).inp = s.inp := rfl
@[simp] theorem driveOf_afterStop : driveOf (afterStop s) = (.high, .high) := rfl

theorem afterStart_answered : Answered s (afterStart s) 0x00 := ⟨rfl, rfl, rfl, rfl, rfl, rfl, rfl⟩

theorem afterStop_answered : Answered s (afterStop s) 0x00 := ⟨rfl, rfl, rfl, rfl, rfl, rfl, rfl⟩

/-- Each pin write adds its one event, and the completion adds the response. -/
theorem afterStart_trace : (afterStart s).trace = s.trace ++ startEvents := by
  simp [afterStart, startFinish, startSeq, performAll, startEvents]

/-- Each pin write adds its one event, and the completion adds the response. -/
theorem afterStop_trace : (afterStop s).trace = s.trace ++ stopEvents := by
  simp [afterStop, stopFinish, stopSeq, performAll, stopEvents]

/-- `start` then `stop` add the events of the one, then those of the other (R149). -/
theorem newEvents_afterStart_afterStop : newEvents s (afterStop (afterStart s)) = startEvents ++ stopEvents := by
  apply newEvents_of
  rw [afterStop_trace, afterStart_trace, List.append_assoc]

end Result

section Edges
variable (p : Drive)

theorem masterStarts_append (a b : List Event) :
    masterStarts p (a ++ b) = masterStarts p a + masterStarts (driveEnd p a) b := countEvents_append _ p a b

theorem masterStops_append (a b : List Event) :
    masterStops p (a ++ b) = masterStops p a + masterStops (driveEnd p a) b := countEvents_append _ p a b

/-- `start` writes both lines, so its last levels do not depend on those it begins with. -/
@[simp] theorem driveEnd_startEvents : driveEnd p startEvents = (.low, .low) := rfl

/-- The `D0` of `start` follows `C1 D1`, so it is a START edge from every pair (R143). -/
theorem masterStarts_startEvents : masterStarts p startEvents = 1 := by
  simp [masterStarts, startEvents, countEvents, isMasterStart, driveAfter]

/-- The `D1` of `start` comes with Clock already released: a STOP edge iff Data was held `LOW` (R143). -/
theorem masterStops_startEvents : masterStops p startEvents = if p.2 = .low then 1 else 0 := by
  simp [masterStops, startEvents, countEvents, isMasterStop, driveAfter]

/-- The `D0` of `stop` comes with Clock already released: a START edge iff Data was released (R148). -/
theorem masterStarts_stopEvents : masterStarts p stopEvents = if p.2 = .high then 1 else 0 := by
  simp [masterStarts, stopEvents, countEvents, isMasterStart, driveAfter]

/-- The `D1` of `stop` follows `C1 D0`, so it is a STOP edge from every pair (R147). -/
theorem masterStops_stopEvents : masterStops p stopEvents = 1 := by
  simp [masterStops, stopEvents, countEvents, isMasterStop, driveAfter]

end Edges

end Sys2Proof.Machine
end

section
/-! The obligations of spec/42_start_stop.md. -/

namespace Sys2Proof.Machine

/-- Settles O21: the word and its operands are O4 and O3, the next state is `afterStart` by its field lemmas. -/
theorem startCommandResult : Obligations.StartCommandResult := by
  obtain ⟨⟨-, hword, -⟩, -⟩ := canonicalWordsAndMasks
  have hdecode (arg : Byte) : decode (1#3 ++ arg) = .start := by
    obtain ⟨-, h, -⟩ := operandsTakenFromArg arg
    exact h
  exact ⟨hword, hdecode, fun s hcfg => ⟨afterStart s, exec_start s hcfg, afterStart_sclDrv s, afterStart_sdaDrv s,
    afterStart_phase s, afterStart_trace s, afterStart_cfg s, afterStart_ackReg s, by rw [afterStart_inp],
    afterStart_answered s⟩⟩

/-- Settles O22: the word and its operands are O4 and O3, the next state is `afterStop` by its field lemmas. -/
theorem stopCommandResult : Obligations.StopCommandResult := by
  obtain ⟨⟨-, -, hword, -⟩, -⟩ := canonicalWordsAndMasks
  have hdecode (arg : Byte) : decode (2#3 ++ arg) = .stop := by
    obtain ⟨-, -, h, -⟩ := operandsTakenFromArg arg
    exact h
  exact ⟨hword, hdecode, fun s hcfg => ⟨afterStop s, exec_stop s hcfg, afterStop_sclDrv s, afterStop_sdaDrv s,
    afterStop_phase s, afterStop_trace s, afterStop_cfg s, afterStop_ackReg s, by rw [afterStop_inp],
    afterStop_answered s⟩⟩

/-- Settles O39: the events are those of `start`, then those of `stop`. Begun with Data released `start` makes no STOP
edge, and it leaves Data held, where `stop` makes no START edge; so each command makes its own one edge only. -/
theorem startThenStopFromIdle : Obligations.StartThenStopFromIdle := by
  intro s hcfg hidle
  have hhistory : driveHistory (.high, .high) ((startEvents ++ stopEvents).filter fun e => e ≠ .response 0x00) =
      [(.high, .high), (.high, .high), (.high, .high), (.high, .low), (.low, .low), (.high, .low), (.high, .low),
        (.high, .high)] := by decide
  refine ⟨afterStart s, afterStop (afterStart s), exec_start s hcfg, exec_stop _ hcfg, driveOf_afterStop _, ?_⟩
  rw [newEvents_afterStart_afterStop, hidle]
  refine ⟨rfl, hhistory, ?_, ?_⟩
  · rw [masterStarts_append, masterStarts_startEvents, driveEnd_startEvents, masterStarts_stopEvents]
    rfl
  · rw [masterStops_append, masterStops_startEvents, masterStops_stopEvents]
    rfl

end Sys2Proof.Machine
end

section
/-! The bits of a byte as samples, most significant first (spec/43_byte_transfer.md R164, R166). -/

namespace Sys2Proof.Machine

/-- A HIGH sample sets the one bit of its iteration's mask (R166); a LOW one leaves the accumulator by definition. -/
theorem getLsbD_orSample_high (acc : Byte) {i k : Nat} (hi : i < 8) (hk : k < 8) :
    (orSample acc i .high).getLsbD k = if k = 7 - i then true else acc.getLsbD k := by
  rw [orSample, bitMask_eq_twoPow i hi, BitVec.getLsbD_or, BitVec.getLsbD_twoPow]
  by_cases hbit : k = 7 - i
  · simp [hbit, show 7 - i < 8 by omega]
  · simp [hbit, Ne.symm hbit]

/-- The number whose binary digits are the samples, the last sample the digit of weight 1. -/
def sampleNumber (samples : List Level) : Nat := samples.foldl (fun n l => 2 * n + (bitOfLevel l).toNat) 0

theorem byteOfSamples_eq_ofNat (samples : List Level) : byteOfSamples samples = BitVec.ofNat 8 (sampleNumber samples) :=
  rfl

theorem sampleNumber_concat (samples : List Level) (l : Level) :
    sampleNumber (samples ++ [l]) = 2 * sampleNumber samples + (bitOfLevel l).toNat := by
  simp [sampleNumber]

/-- Digit `k` of the number is the sample `k` places before the last: each further sample shifts the digits up by one and
takes digit 0 itself. -/
theorem testBit_sampleNumber (samples : List Level) (k : Nat) :
    (sampleNumber samples).testBit k = (samples.reverse[k]? == some .high) := by
  induction samples using List.reverseRecOn generalizing k with
  | nil => simp [sampleNumber]
  | append_singleton samples l ih =>
    rw [sampleNumber_concat, List.reverse_concat]
    cases k with
    | zero => cases l <;> simp [bitOfLevel]
    | succ k =>
      have hshift : (2 * sampleNumber samples + (bitOfLevel l).toNat) / 2 = sampleNumber samples := by
        have := (bitOfLevel l).isLt
        omega
      rw [Nat.testBit_succ, hshift, ih, List.getElem?_cons_succ]

theorem getLsbD_byteOfSamples (samples : List Level) {k : Nat} (hk : k < 8) :
    (byteOfSamples samples).getLsbD k = (samples.reverse[k]? == some .high) := by
  rw [byteOfSamples_eq_ofNat, BitVec.getLsbD_ofNat, testBit_sampleNumber, decide_eq_true hk, Bool.true_and]

/-- Of eight samples, that of iteration `i` is bit `7 - i` of the byte they make (R166). -/
theorem getElem?_eq_bitLevel_byteOfSamples {samples : List Level} (hlen : samples.length = 8) {i : Nat} (hi : i < 8) :
    samples[i]? = some (bitLevel (byteOfSamples samples) (7 - i)) := by
  have hrev : samples.reverse[7 - i]? = samples[i]? := by
    rw [List.getElem?_reverse (by omega)]
    congr 1
    omega
  rw [bitLevel, getLsbD_byteOfSamples samples (by omega), hrev, List.getElem?_eq_getElem (by omega)]
  cases samples[i] <;> simp

/-- The levels of a byte's bits make that byte again (R57, R166). -/
theorem byteOfSamples_samplesOfByte (v : Byte) : byteOfSamples (samplesOfByte v) = v := by
  have hrev : (samplesOfByte v).reverse = (List.range 8).map (bitLevel v) := rfl
  apply BitVec.eq_of_getLsbD_eq
  intro k hk
  rw [getLsbD_byteOfSamples _ hk, hrev, List.getElem?_map, List.getElem?_range hk]
  cases hbit : v.getLsbD k <;> simp [bitLevel, hbit]

/-- Eight iterations of the receiving loop turn a zero accumulator into the byte of their samples (R166). -/
theorem foldl_orSample_eq_byteOfSamples {samples : List Level} (hlen : samples.length = 8) :
    (byteIterations.zip samples).foldl (fun acc p => orSample acc p.1 p.2) 0 = byteOfSamples samples := by
  match samples, hlen with
  | [l0, l1, l2, l3, l4, l5, l6, l7], _ => exact orSamples_eq_byteOfSamples l0 l1 l2 l3 l4 l5 l6 l7

end Sys2Proof.Machine
end

section
/-! The command `receiveByte`: its micro-operations as a whole, and the state it leaves, field by field
(spec/43_byte_transfer.md R165). -/

namespace Sys2Proof.Machine

open Sys2Proof.Safety

variable (s : State)

/-- Data released, then the eight iterations: the first micro-operation is what lets the reads see the environment
(R116), so nothing is asked of the line state before. -/
theorem performAll_receiveByteSeq :
    let t := performAll receiveByteSeq s
    t.trace = s.trace ++ receiveByteEvents (envLevels 8 s) ∧ t.sdaDrv = .high ∧ t.sclDrv = .low ∧
      t.dlyPending = none ∧ t.cfg = s.cfg ∧ t.ackReg = s.ackReg ∧ t.inp.sdaEnv = s.inp.sdaEnv.drop 8 ∧
      (s.shReg = 0 → t.shReg = byteOfSamples (envLevels 8 s)) := by
  have henv : envLevels 8 (performMicro (.writeData .high) s) = envLevels 8 s := envLevels_congr 8 rfl rfl
  have hlen : byteIterations.length = 8 := rfl
  obtain ⟨htrace, hsda, hend, hcfg, hack, hshReg, hscript⟩ :=
    receiveBits_spec byteIterations (performMicro (.writeData .high) s) rfl
  obtain ⟨hscl, hdly⟩ := hend (by decide)
  rw [hlen, henv] at htrace hshReg
  refine ⟨?_, hsda, hscl, hdly, hcfg, hack, hscript, fun hzero => ?_⟩
  · simpa [receiveByteSeq, performAll, receiveByteEvents] using htrace
  · have hacc : (performMicro (.writeData .high) s).shReg = 0 := hzero
    rw [hacc, foldl_orSample_eq_byteOfSamples (envLevels_length 8 s)] at hshReg
    exact hshReg

/-- The state `receiveByte` leaves: accepted, its 25 micro-operations performed, completed (R165). -/
def afterReceiveByte (s : State) : State :=
  receiveByteFinish (performAll receiveByteSeq (receiveByteLoad (occupy s)))

/-- `receiveByte` looks at `CFG` alone. -/
theorem exec_receiveByte (hcfg : s.cfg = true) : exec .receiveByte s = .next (afterReceiveByte s) :=
  exec_next .receiveByte s (admitted_of_cfg .receiveByte s hcfg)

/-! Accept draws nothing, so the levels to come are those of the state before. -/

@[simp] theorem envLevels_occupy (n : Nat) : envLevels n (occupy s) = envLevels n s := envLevels_congr n rfl rfl

@[simp] theorem envLevels_receiveByteLoad (n : Nat) : envLevels n (receiveByteLoad s) = envLevels n s :=
  envLevels_congr n rfl rfl

/-- Accept clears `SHREG` (R86), so before the response it holds the byte of the samples. -/
theorem shReg_performAll_receiveByteLoad :
    (performAll receiveByteSeq (receiveByteLoad s)).shReg = byteOfSamples (envLevels 8 s) := by
  obtain ⟨-, -, -, -, -, -, -, hshReg⟩ := performAll_receiveByteSeq (receiveByteLoad s)
  rw [hshReg rfl, envLevels_receiveByteLoad]

@[simp] theorem afterReceiveByte_rspData : (afterReceiveByte s).rspData = byteOfSamples (envLevels 8 s) := by
  rw [afterReceiveByte, receiveByteFinish, complete_rspData, shReg_performAll_receiveByteLoad, envLevels_occupy]

theorem afterReceiveByte_trace : (afterReceiveByte s).trace =
    s.trace ++ receiveByteEvents (envLevels 8 s) ++ [.response (byteOfSamples (envLevels 8 s))] := by
  obtain ⟨htrace, -⟩ := performAll_receiveByteSeq (receiveByteLoad (occupy s))
  rw [afterReceiveByte, receiveByteFinish, complete_trace, shReg_performAll_receiveByteLoad, htrace,
    envLevels_receiveByteLoad, envLevels_occupy]
  rfl

/-- Completion writes none of these, so they are as the last micro-operation leaves them. -/
theorem afterReceiveByte_fields :
    (afterReceiveByte s).sdaDrv = .high ∧ (afterReceiveByte s).sclDrv = .low ∧
      (afterReceiveByte s).dlyPending = none ∧ (afterReceiveByte s).cfg = s.cfg ∧
      (afterReceiveByte s).ackReg = s.ackReg ∧ (afterReceiveByte s).inp.sdaEnv = s.inp.sdaEnv.drop 8 := by
  obtain ⟨-, hsda, hscl, hdly, hcfg, hack, hscript, -⟩ := performAll_receiveByteSeq (receiveByteLoad (occupy s))
  exact ⟨hsda, hscl, hdly, hcfg, hack, hscript⟩

@[simp] theorem afterReceiveByte_phase : (afterReceiveByte s).phase = s.phase := by
  simp [afterReceiveByte, receiveByteFinish, receiveByteLoad]

theorem afterReceiveByte_answered : Answered s (afterReceiveByte s) (byteOfSamples (envLevels 8 s)) := by
  obtain ⟨-, -, hdly, -⟩ := afterReceiveByte_fields s
  refine ⟨rfl, rfl, afterReceiveByte_rspData s, hdly, ?_, ?_, ?_⟩ <;>
    simp [afterReceiveByte, receiveByteFinish, receiveByteLoad]

end Sys2Proof.Machine
end

section
/-! The command `sendByte`: its loop, and the state it leaves, field by field (spec/43_byte_transfer.md R161). -/

namespace Sys2Proof.Machine

open Sys2Proof.Safety

/-- `SHREG` is written by no list of micro-operations without a read into it (R26). -/
theorem performAll_shReg (ms : List MicroOp) (s : State) (h : ∀ i, .readData (.shReg i) ∉ ms) :
    (performAll ms s).shReg = s.shReg := by
  induction ms generalizing s with
  | nil => rfl
  | cons m ms ih =>
    have hm : ∀ i, m ≠ .readData (.shReg i) := fun i => (List.ne_of_not_mem_cons (h i)).symm
    have hms : ∀ i, .readData (.shReg i) ∉ ms := fun i => List.not_mem_of_not_mem_cons (h i)
    calc (performAll (m :: ms) s).shReg = (performMicro m s).shReg := ih _ hms
      _ = s.shReg := beginMicro_shReg m s hm

/-- `sendByte` only writes. -/
theorem readData_not_mem_sendByteSeq (d : Sink) : .readData d ∉ sendByteSeq := by
  simp [sendByteSeq, byteIterations, sendBitSeq]

/-- One iteration of the sending loop puts the level its bit test finds on Data, then pulses Clock (R161). -/
theorem performAll_sendBitSeq_trace (i : Nat) (s : State) : (performAll (sendBitSeq i) s).trace =
    s.trace ++ [.data (sendLevel s.shReg i), .clock .high, .clock .low] := by
  simp [sendBitSeq, performAll, performMicro, beginMicro_trace, microEvent]

/-- Any number of iterations, all testing the byte the loop begins with. -/
theorem performAll_sendBits_trace (is : List Nat) (s : State) : (performAll (is.flatMap sendBitSeq) s).trace =
    s.trace ++ is.flatMap fun i => [.data (sendLevel s.shReg i), .clock .high, .clock .low] := by
  induction is generalizing s with
  | nil => simp [performAll]
  | cons i is ih =>
    have hshReg : (performAll (sendBitSeq i) s).shReg = s.shReg := rfl
    rw [List.flatMap_cons, performAll_append, ih, hshReg, performAll_sendBitSeq_trace, List.append_assoc,
      List.flatMap_cons]

/-- The loop tests bit 7 first (R164). -/
theorem sendByteEvents_eq (v : Byte) : sendByteEvents v =
    byteIterations.flatMap fun i => [.data (sendLevel v i), .clock .high, .clock .low] := by
  have hlt : ∀ i ∈ byteIterations, i < 8 := by decide
  have horder : [7, 6, 5, 4, 3, 2, 1, 0] = byteIterations.map (7 - ·) := rfl
  rw [sendByteEvents, horder, List.flatMap_map]
  apply List.flatMap_congr
  intro i hi
  rw [sendLevel_eq_bitLevel v i (hlt i hi)]

/-- The state `sendByte v` leaves: accepted, its 24 micro-operations performed, completed (R161). -/
def afterSendByte (v : Byte) (s : State) : State := sendByteFinish (performAll sendByteSeq (sendByteLoad v (occupy s)))

variable (v : Byte) (s : State)

/-- `sendByte` looks at `CFG` alone. -/
theorem exec_sendByte (hcfg : s.cfg = true) : exec (.sendByte v) s = .next (afterSendByte v s) :=
  exec_next (.sendByte v) s (admitted_of_cfg (.sendByte v) s hcfg)

/-- Data stays at the level of the last iteration, bit 0. -/
@[simp] theorem afterSendByte_sdaDrv : (afterSendByte v s).sdaDrv = bitLevel v 0 :=
  sendLevel_eq_bitLevel v 7 (by decide)

@[simp] theorem afterSendByte_sclDrv : (afterSendByte v s).sclDrv = .low := rfl
@[simp] theorem afterSendByte_cfg : (afterSendByte v s).cfg = s.cfg := rfl
@[simp] theorem afterSendByte_phase : (afterSendByte v s).phase = s.phase := rfl
@[simp] theorem afterSendByte_ackReg : (afterSendByte v s).ackReg = s.ackReg := rfl
@[simp] theorem afterSendByte_inp : (afterSendByte v s).inp = s.inp := rfl

theorem afterSendByte_answered : Answered s (afterSendByte v s) 0x00 := ⟨rfl, rfl, rfl, rfl, rfl, rfl, rfl⟩

/-- Accept puts `v` into `SHREG` (R86), so the bits the loop tests are those of `v`. -/
theorem afterSendByte_trace : (afterSendByte v s).trace = s.trace ++ sendByteEvents v ++ [.response 0x00] := by
  rw [afterSendByte, sendByteFinish, complete_trace, sendByteSeq, performAll_sendBits_trace, sendByteEvents_eq]
  rfl

end Sys2Proof.Machine
end

section
/-! The obligations of spec/43_byte_transfer.md on the results of the two byte commands. -/

namespace Sys2Proof.Machine

/-- Settles O24: the word and its operands are O4 and O3, the next state is `afterReceiveByte` by its field lemmas. -/
theorem receiveByteCommandResult : Obligations.ReceiveByteCommandResult := by
  obtain ⟨⟨-, -, -, hword, -⟩, -⟩ := canonicalWordsAndMasks
  have hdecode (arg : Byte) : decode (4#3 ++ arg) = .receiveByte := by
    obtain ⟨-, -, -, -, h, -⟩ := operandsTakenFromArg arg
    exact h
  refine ⟨hword, hdecode, rfl, shReg_performAll_receiveByteLoad, fun s hcfg => ?_⟩
  obtain ⟨hsda, hscl, -, hcfgKept, hack, hscript⟩ := afterReceiveByte_fields s
  exact ⟨afterReceiveByte s, exec_receiveByte s hcfg, afterReceiveByte_trace s, hsda, hscl, hcfgKept,
    afterReceiveByte_phase s, hack, hscript, afterReceiveByte_answered s⟩

/-- Settles O32: the response is the byte of the eight levels drawn. Where the script gives the bits of `v` these are
drawn and make `v` again; in general each level is read back as its bit. -/
theorem receiveReturnsSlaveByte : Obligations.ReceiveReturnsSlaveByte := by
  refine ⟨fun _ _ => rfl, fun acc i k hi hk => getLsbD_orSample_high acc hi hk, fun v rest s hcfg henv => ?_,
    fun s i hcfg hi => ?_⟩
  · obtain ⟨-, -, -, -, -, hscript⟩ := afterReceiveByte_fields s
    have hdrawn : envLevels 8 s = samplesOfByte v := envLevels_of_script (samplesOfByte v) rest s henv
    refine ⟨afterReceiveByte s, exec_receiveByte s hcfg, ?_, ?_⟩
    · rw [afterReceiveByte_rspData, hdrawn, byteOfSamples_samplesOfByte]
    · rw [hscript, henv]
      rfl
  · refine ⟨afterReceiveByte s, exec_receiveByte s hcfg, ?_⟩
    rw [afterReceiveByte_rspData]
    exact getElem?_eq_bitLevel_byteOfSamples (envLevels_length 8 s) hi

/-- Settles O23: the word and its operand are O4 and O3, no micro-operation of the loop reads into `SHREG`, and the next
state is `afterSendByte` by its field lemmas. -/
theorem sendByteCommandResult : Obligations.SendByteCommandResult := by
  have hdecode (v : Byte) : decode (3#3 ++ v) = .sendByte v := by
    obtain ⟨-, -, -, h, -⟩ := operandsTakenFromArg v
    exact h
  have hshReg (k : Nat) (s : State) : (performAll (sendByteSeq.take k) s).shReg = s.shReg :=
    performAll_shReg _ s fun i hread => readData_not_mem_sendByteSeq (.shReg i) (List.mem_of_mem_take hread)
  exact ⟨encode_sendByte, hdecode, fun _ => rfl, hshReg, fun v s hcfg => ⟨afterSendByte v s, exec_sendByte v s hcfg,
    afterSendByte_trace v s, afterSendByte_sdaDrv v s, afterSendByte_sclDrv v s, afterSendByte_cfg v s,
    afterSendByte_phase v s, afterSendByte_ackReg v s, by rw [afterSendByte_inp], afterSendByte_answered v s⟩⟩

end Sys2Proof.Machine
end

section
/-! The acknowledge bit as a level and as a response, and the read into `ACKREG` (spec/44_acknowledge.md R183, R186). -/

namespace Sys2Proof.Machine

/-- `sendAck`'s operand: ACK drives Data `LOW`, NACK releases it (R183). -/
theorem levelOfBit_eq_ite : ∀ b : Bit, levelOfBit b = if b = 0 then .low else .high := by decide

/-- The sample as a bit: `LOW` is 0, `HIGH` is 1 (R186). -/
theorem ackOfSample_eq_ite (l : Level) : ackOfSample l = if l = .low then 0 else 1 := by cases l <;> rfl

/-- The sample as the response: `LOW` answers 0x00, `HIGH` answers 0x01 (R186). -/
theorem ackResponse_ackOfSample (l : Level) : ackResponse (ackOfSample l) = if l = .low then 0x00 else 0x01 := by
  cases l <;> rfl

/-- With Data released a read into `ACKREG` draws the environment's level, records it and keeps it as a bit (R112,
R116). -/
theorem performMicro_readAck_released (s : State) (h : s.sdaDrv = .high) :
    performMicro (.readData .ackReg) s =
      advance (setAckReg (ackOfSample (envLevel s)) (emit (.read (envLevel s)) (envDrawn s))) := by
  rw [performMicro, beginMicro, beginReadData, sdaLine_released s _ h, advance_requestDelay, storeSample]

end Sys2Proof.Machine
end

section
/-! The commands `waitAck` and `sendAck`: the states they leave, field by field (spec/44_acknowledge.md R181, R183). -/

namespace Sys2Proof.Machine

open Sys2Proof.Safety

/-- The state `waitAck` leaves: accepted, its two micro-operations performed, completed (R181). -/
def afterWaitAck (s : State) : State := waitAckFinish (performAll waitAckSeq (occupy s))

/-- The state `sendAck b` leaves: accepted, its three micro-operations performed, completed (R183). -/
def afterSendAck (b : Bit) (s : State) : State := sendAckFinish (performAll (sendAckSeq b) (occupy s))

variable (b : Bit) (s : State)

/-- `waitAck` looks at `CFG` alone. -/
theorem exec_waitAck (hcfg : s.cfg = true) : exec .waitAck s = .next (afterWaitAck s) := exec_next .waitAck s hcfg

/-- `sendAck` looks at `CFG` alone. -/
theorem exec_sendAck (hcfg : s.cfg = true) : exec (.sendAck b) s = .next (afterSendAck b s) :=
  exec_next (.sendAck b) s hcfg

@[simp] theorem afterWaitAck_sclDrv : (afterWaitAck s).sclDrv = .low := rfl
@[simp] theorem afterWaitAck_sdaDrv : (afterWaitAck s).sdaDrv = s.sdaDrv := rfl
@[simp] theorem afterWaitAck_cfg : (afterWaitAck s).cfg = s.cfg := rfl
@[simp] theorem afterWaitAck_phase : (afterWaitAck s).phase = s.phase := rfl
@[simp] theorem afterWaitAck_ackReg : (afterWaitAck s).ackReg = s.ackReg := rfl
@[simp] theorem afterWaitAck_inp : (afterWaitAck s).inp = s.inp := rfl

@[simp] theorem afterSendAck_sclDrv : (afterSendAck b s).sclDrv = .low := rfl
@[simp] theorem afterSendAck_sdaDrv : (afterSendAck b s).sdaDrv = levelOfBit b := rfl
@[simp] theorem afterSendAck_cfg : (afterSendAck b s).cfg = s.cfg := rfl
@[simp] theorem afterSendAck_phase : (afterSendAck b s).phase = s.phase := rfl
@[simp] theorem afterSendAck_ackReg : (afterSendAck b s).ackReg = s.ackReg := rfl
@[simp] theorem afterSendAck_inp : (afterSendAck b s).inp = s.inp := rfl

theorem afterWaitAck_answered : Answered s (afterWaitAck s) 0x00 := ⟨rfl, rfl, rfl, rfl, rfl, rfl, rfl⟩

theorem afterSendAck_answered : Answered s (afterSendAck b s) 0x00 := ⟨rfl, rfl, rfl, rfl, rfl, rfl, rfl⟩

/-- Each Clock write adds its one event, and the completion adds the response. -/
theorem afterWaitAck_trace : (afterWaitAck s).trace = s.trace ++ [.clock .high, .clock .low, .response 0x00] := by
  simp [afterWaitAck, waitAckFinish, waitAckSeq, performAll]

/-- Each pin write adds its one event, and the completion adds the response. -/
theorem afterSendAck_trace : (afterSendAck b s).trace =
    s.trace ++ [.data (levelOfBit b), .clock .high, .clock .low, .response 0x00] := by
  simp [afterSendAck, sendAckFinish, sendAckSeq, performAll]

end Sys2Proof.Machine
end

section
/-! The command `receiveAck`: its micro-operations as a whole, and the state it leaves, field by field
(spec/44_acknowledge.md R186). -/

namespace Sys2Proof.Machine

open Sys2Proof.Safety

variable (s : State)

/-- Data is released before the read, so the sample is the environment's level from every line state (R116); nothing is
drawn before the read, so it is the next level of the state before. -/
theorem performAll_receiveAckSeq :
    let t := performAll receiveAckSeq s
    t.trace = s.trace ++ [.data .high, .clock .high, .read (envLevel s), .clock .low] ∧ t.sdaDrv = .high ∧
      t.sclDrv = .low ∧ t.dlyPending = none ∧ t.cfg = s.cfg ∧ t.ackReg = ackOfSample (envLevel s) ∧
      t.inp.sdaEnv = s.inp.sdaEnv.drop 1 := by
  let r := performMicro (.writeClock .high) (performMicro (.writeData .high) s)
  have henv : envLevel r = envLevel s := envLevel_congr rfl rfl
  have hread : performAll receiveAckSeq s = performMicro (.writeClock .low)
      (advance (setAckReg (ackOfSample (envLevel s)) (emit (.read (envLevel s)) (envDrawn r)))) := by
    rw [← henv, ← performMicro_readAck_released r rfl]
    rfl
  simp [hread, r, envDrawn_sdaEnv]

/-- The state `receiveAck` leaves: accepted, its four micro-operations performed, completed (R186). -/
def afterReceiveAck (s : State) : State := receiveAckFinish (performAll receiveAckSeq (occupy s))

/-- `receiveAck` looks at `CFG` alone. -/
theorem exec_receiveAck (hcfg : s.cfg = true) : exec .receiveAck s = .next (afterReceiveAck s) :=
  exec_next .receiveAck s hcfg

/-- Accept draws nothing. -/
@[simp] theorem envLevel_occupy : envLevel (occupy s) = envLevel s := envLevel_congr rfl rfl

/-- Before the response `ACKREG` holds the sample as a bit. -/
theorem ackReg_performAll_receiveAckSeq :
    (performAll receiveAckSeq s).ackReg = if envLevel s = .low then 0 else 1 := by
  obtain ⟨-, -, -, -, -, hack, -⟩ := performAll_receiveAckSeq s
  rw [hack, ackOfSample_eq_ite]

/-- The response is `ACKREG` as the last micro-operation leaves it. -/
theorem afterReceiveAck_eq_complete : afterReceiveAck s =
    complete (if envLevel s = .low then 0x00 else 0x01) (releaseAckReg (performAll receiveAckSeq (occupy s))) := by
  obtain ⟨-, -, -, -, -, hack, -⟩ := performAll_receiveAckSeq (occupy s)
  rw [afterReceiveAck, receiveAckFinish, hack, envLevel_occupy, ackResponse_ackOfSample]

theorem afterReceiveAck_trace : (afterReceiveAck s).trace = s.trace ++ [.data .high, .clock .high,
    .read (envLevel s), .clock .low, .response (if envLevel s = .low then 0x00 else 0x01)] := by
  obtain ⟨htrace, -⟩ := performAll_receiveAckSeq (occupy s)
  rw [afterReceiveAck_eq_complete, complete_trace, releaseAckReg_trace, htrace, envLevel_occupy, occupy_trace,
    List.append_assoc]
  rfl

/-- Completion writes none of these, so they are as the last micro-operation leaves them. -/
theorem afterReceiveAck_fields :
    (afterReceiveAck s).sdaDrv = .high ∧ (afterReceiveAck s).sclDrv = .low ∧
      (afterReceiveAck s).dlyPending = none ∧ (afterReceiveAck s).cfg = s.cfg ∧
      (afterReceiveAck s).inp.sdaEnv = s.inp.sdaEnv.drop 1 := by
  obtain ⟨-, hsda, hscl, hdly, hcfg, -, hscript⟩ := performAll_receiveAckSeq (occupy s)
  exact ⟨hsda, hscl, hdly, hcfg, hscript⟩

@[simp] theorem afterReceiveAck_phase : (afterReceiveAck s).phase = s.phase := by
  simp [afterReceiveAck_eq_complete]

theorem afterReceiveAck_answered :
    Answered s (afterReceiveAck s) (if envLevel s = .low then 0x00 else 0x01) := by
  obtain ⟨-, -, hdly, -⟩ := afterReceiveAck_fields s
  refine ⟨rfl, rfl, ?_, hdly, ?_, ?_, ?_⟩ <;> simp [afterReceiveAck_eq_complete]

end Sys2Proof.Machine
end

section
/-! The obligations of spec/44_acknowledge.md on the results of the three acknowledge commands. -/

namespace Sys2Proof.Machine

/-- Settles O25: the word and its operands are O4 and O3, the next state is `afterWaitAck` by its field lemmas. -/
theorem waitAckCommandResult : Obligations.WaitAckCommandResult := by
  obtain ⟨⟨-, -, -, -, hword, -⟩, -⟩ := canonicalWordsAndMasks
  have hdecode (arg : Byte) : decode (5#3 ++ arg) = .waitAck := by
    obtain ⟨-, -, -, -, -, h, -⟩ := operandsTakenFromArg arg
    exact h
  exact ⟨hword, hdecode, rfl, fun s hcfg => ⟨afterWaitAck s, exec_waitAck s hcfg, afterWaitAck_trace s,
    afterWaitAck_sclDrv s, afterWaitAck_sdaDrv s, afterWaitAck_cfg s, afterWaitAck_phase s, afterWaitAck_ackReg s,
    by rw [afterWaitAck_inp], afterWaitAck_answered s⟩⟩

/-- Settles O26: the word is `encode_sendAck` and its operand `decode_sendAck_word`, the next state is `afterSendAck` by
its field lemmas, with the driven level as `levelOfBit_eq_ite` says it. -/
theorem sendAckCommandResult : Obligations.SendAckCommandResult := by
  have hdecode (arg : Byte) : decode (6#3 ++ arg) = .sendAck (arg.extractLsb' 0 1) := by
    rw [decode_sendAck_word, extractLsb'_zero_one_eq_ofBool]
  refine ⟨encode_sendAck, hdecode, fun _ => rfl, fun b s hcfg => ?_⟩
  rw [← levelOfBit_eq_ite]
  exact ⟨afterSendAck b s, exec_sendAck b s hcfg, afterSendAck_sdaDrv b s, afterSendAck_trace b s,
    afterSendAck_sclDrv b s, afterSendAck_cfg b s, afterSendAck_phase b s, afterSendAck_ackReg b s,
    by rw [afterSendAck_inp], afterSendAck_answered b s⟩

/-- Settles O27: the word and its operands are O4 and O3, the next state is `afterReceiveAck` by its field lemmas. -/
theorem receiveAckCommandResult : Obligations.ReceiveAckCommandResult := by
  obtain ⟨⟨-, -, -, -, -, hword⟩, -⟩ := canonicalWordsAndMasks
  have hdecode (arg : Byte) : decode (7#3 ++ arg) = .receiveAck := by
    obtain ⟨-, -, -, -, -, -, -, h⟩ := operandsTakenFromArg arg
    exact h
  refine ⟨hword, hdecode, rfl, ackReg_performAll_receiveAckSeq, fun s hcfg => ?_⟩
  obtain ⟨hsda, hscl, -, hcfgKept, hscript⟩ := afterReceiveAck_fields s
  exact ⟨afterReceiveAck s, exec_receiveAck s hcfg, afterReceiveAck_trace s, hsda, hscl, hcfgKept,
    afterReceiveAck_phase s, hscript, afterReceiveAck_answered s⟩

end Sys2Proof.Machine
end

section
/-! The delays of the commands: how many each asks for, and of which kind (spec/70_reset_and_hazards.md R275). -/

namespace Sys2Proof.Machine

variable {k k' : DelayKind} {ms : List MicroOp} {i : Instr} {n : Nat}

/-- Micro-operations that all ask for one kind of delay ask for as many of it as they are. -/
theorem delayCount_eq_length (h : ∀ m ∈ ms, m.delay = some k) : delayCount k ms = ms.length :=
  List.countP_eq_length.mpr fun m hm => decide_eq_true (h m hm)

/-- Micro-operations that all ask for one kind of delay ask for none of another. -/
theorem delayCount_eq_zero (h : ∀ m ∈ ms, m.delay = some k) (hne : k ≠ k') : delayCount k' ms = 0 :=
  List.countP_eq_zero.mpr fun m hm => by simp [h m hm, hne]

/-- Every command but `init` is made of pin micro-operations alone (R118). -/
theorem delay_eq_settle_of_mem_seqOf (hi : i ≠ .init) : ∀ m ∈ seqOf i, m.delay = some .settle := by
  cases i with
  | init => exact absurd rfl hi
  | sendByte v => exact (show ∀ m ∈ sendByteSeq, m.delay = some .settle by decide)
  | sendAck b => simp [seqOf, sendAckSeq, MicroOp.delay]
  | _ => decide

/-- A command of pin micro-operations lasts one settle delay for each of them. -/
theorem duration_of_lenOf (tS tI : Nat) (hi : i ≠ .init) (hlen : lenOf i = n) : duration tS tI i = n * tS := by
  have hsettle : delayCount .settle (seqOf i) = n :=
    (delayCount_eq_length (delay_eq_settle_of_mem_seqOf hi)).trans hlen
  have hinit : delayCount .init (seqOf i) = 0 :=
    delayCount_eq_zero (delay_eq_settle_of_mem_seqOf hi) nofun
  rw [duration, hsettle, hinit, Nat.zero_mul, Nat.add_zero]

/-- Of the four micro-operations of `init` two are pin writes, one takes no delay and one is the init delay (R131). -/
theorem duration_init (tS tI : Nat) : duration tS tI .init = 2 * tS + tI := by
  have hsettle : delayCount .settle (seqOf .init) = 2 := by decide
  have hinit : delayCount .init (seqOf .init) = 1 := by decide
  rw [duration, hsettle, hinit, Nat.one_mul]

end Sys2Proof.Machine
end

section
/-! The obligation of spec/70_reset_and_hazards.md on durations. -/

namespace Sys2Proof.Machine

/-- Settles O19: the delay of each micro-operation is a row of `MicroOp.delay` and the lengths are those of the sequences;
`init` lasts what `duration_init` says, every other command its length in settle delays. -/
theorem commandDurations : Obligations.CommandDurations := by
  have hstart : lenOf .start = 4 := rfl
  have hstop : lenOf .stop = 3 := rfl
  have hsendByte (v : Byte) : lenOf (.sendByte v) = 24 := rfl
  have hreceiveByte : lenOf .receiveByte = 25 := rfl
  have hwaitAck : lenOf .waitAck = 2 := rfl
  have hsendAck (b : Bit) : lenOf (.sendAck b) = 3 := rfl
  have hreceiveAck : lenOf .receiveAck = 4 := rfl
  refine ⟨⟨fun _ => rfl, fun _ => rfl, fun _ => rfl, rfl, rfl⟩,
    ⟨rfl, hstart, hstop, hsendByte, hreceiveByte, hwaitAck, hsendAck, hreceiveAck⟩, fun tS tI => ?_⟩
  exact ⟨duration_init tS tI, duration_of_lenOf tS tI nofun hstart, duration_of_lenOf tS tI nofun hstop,
    fun v => duration_of_lenOf tS tI nofun (hsendByte v), duration_of_lenOf tS tI nofun hreceiveByte,
    duration_of_lenOf tS tI nofun hwaitAck, fun b => duration_of_lenOf tS tI nofun (hsendAck b),
    duration_of_lenOf tS tI nofun hreceiveAck⟩

end Sys2Proof.Machine
end

section
/-! Decoding and encoding as inverses, and the words that are none (spec/30_encoding.md R80 to R84). -/

namespace Sys2Proof

/-- Widening a bit to `arg` and taking bit 0 gives the bit back (R82). -/
theorem extractLsb'_setWidth_bit : ∀ b : Bit, (b.setWidth 8).extractLsb' 0 1 = b := by decide

/-- A canonical word is read back as its command: the `op` field picks the branch, the `arg` field is the operand. -/
@[simp] theorem decode_encode (i : Instr) : decode (encode i) = i := by
  cases i with
  | sendByte v => simp [decode, encode, opcode, canonicalArg]
  | sendAck b => simp [decode, encode, opcode, canonicalArg, extractLsb'_setWidth_bit]
  | _ => rfl

/-- Settles O1: every term of `Instr` is well-formed, and `decode_encode` holds of all. -/
theorem decodeEncodeRoundTrip : Obligations.DecodeEncodeRoundTrip :=
  fun i _ => decode_encode i

/-- A word whose command takes no operand keeps its `op` field alone. -/
theorem encode_eq_and_opMask {w : CmdWord} (h : canonicalArg (decode w) = 0) : encode (decode w) = w &&& 0x700 := by
  rw [encode, opcode_decode, h, and_opMask]

/-- Bit 0 of `arg`, widened, is `arg` under the mask 1. -/
theorem setWidth_extractLsb'_bit : ∀ arg : Byte, (arg.extractLsb' 0 1).setWidth 8 = arg &&& 1#8 := by decide

/-- A mask that keeps the whole `op` field is a mask on `arg` alone. -/
theorem and_argMask (w : CmdWord) (mask : Byte) :
    w &&& (BitVec.allOnes 3 ++ mask) = opField w ++ (argField w &&& mask) := by
  calc w &&& (BitVec.allOnes 3 ++ mask)
      = (opField w ++ argField w) &&& (BitVec.allOnes 3 ++ mask) := by rw [opField_append_argField]
    _ = (opField w &&& BitVec.allOnes 3) ++ (argField w &&& mask) := BitVec.and_append
    _ = opField w ++ (argField w &&& mask) := by rw [BitVec.and_allOnes]

/-- The operand `decode` gives `sendByte` is the `arg` field. -/
theorem argField_of_decode_sendByte {w : CmdWord} {v : Byte} (h : decode w = .sendByte v) : argField w = v := by
  unfold decode at h
  split at h <;> simp_all

/-- The operand `decode` gives `sendAck` is bit 0 of the `arg` field. -/
theorem argField_of_decode_sendAck {w : CmdWord} {b : Bit} (h : decode w = .sendAck b) :
    (argField w).extractLsb' 0 1 = b := by
  unfold decode at h
  split at h <;> simp_all

/-- Settles O2: six commands keep the `op` field alone, `sendByte` keeps every bit, `sendAck` also bit 0. -/
theorem encodeDecodeClearsIgnoredBits : Obligations.EncodeDecodeClearsIgnoredBits := by
  intro w
  cases hi : decode w with
  | sendByte v =>
    have hmask : (0x7FF : CmdWord) = BitVec.allOnes 3 ++ BitVec.allOnes 8 := by decide
    rw [← hi, encode, opcode_decode, hi, significantMask, canonicalArg, ← argField_of_decode_sendByte hi, hmask,
      and_argMask, BitVec.and_allOnes]
  | sendAck b =>
    have hmask : (0x701 : CmdWord) = BitVec.allOnes 3 ++ 1#8 := by decide
    rw [← hi, encode, opcode_decode, hi, significantMask, canonicalArg, ← argField_of_decode_sendAck hi, hmask,
      and_argMask, setWidth_extractLsb'_bit]
  | _ => rw [← hi, encode_eq_and_opMask (by rw [hi]; rfl), hi]; rfl

/-- A number of up to 16 bits is a command word exactly when it fits the 11 bits of `cmd_word` (log 15). -/
theorem decodeTableWord_eq (w : Nat) (h : w < 65536) :
    decodeTableWord 16 w = if w < 2048 then some (decode (BitVec.ofNat 11 w)) else none := by
  have hmod : w % 2 ^ 16 = w := Nat.mod_eq_of_lt h
  rw [decodeTableWord, hmod, decodeNat]
  by_cases hw : w < 2048 <;> simp [hw]

/-- Settles O5: `decodeTableWord_eq` says which command, or none. -/
theorem everyWordDecodes : Obligations.EveryWordDecodes := by
  intro w h
  rw [decodeTableWord_eq w h]
  by_cases hw : w < 2048 <;> simp [hw]

/-- Settles O6: nine closed words. -/
theorem decodeOfWrittenWords : Obligations.DecodeOfWrittenWords := by
  unfold Obligations.DecodeOfWrittenWords
  decide

end Sys2Proof
end

section
/-! The assembler on the printer's text, command by command (spec/30_encoding.md R89 to R91; log 13). -/

namespace Sys2Proof.Machine

/-- The operand of a command, as the assembler reads it. -/
def operandOf (i : Instr) : Option Nat :=
  match i with
  | .sendByte v => some v.toNat
  | .sendAck b => some b.toNat
  | _ => none

/-- A command as the assembler reads its printed form. -/
def callOf (i : Instr) : Call := ⟨mnemonicOf i, operandOf i⟩

/-- R89 accepts every command, as what it is. -/
@[simp] theorem callInstr_callOf (i : Instr) : callInstr (callOf i) = some i := by
  cases i with
  | sendByte v =>
    have hv : v.toNat ≤ 255 := by omega
    simp [callInstr, callOf, mnemonicOf, operandOf, Call.wf, hv]
  | sendAck b =>
    have hb : b.toNat ≤ 1 := by omega
    simp [callInstr, callOf, mnemonicOf, operandOf, Call.wf, hb]
  | _ => rfl

theorem callsInstrs_map_callOf (is : List Instr) : callsInstrs (is.map callOf) = some is := by
  induction is with
  | nil => rfl
  | cons i is ih => simp [callsInstrs, ih]

/-! Digits. -/

/-- The printer's digits are those the assembler reads, in base 16. -/
theorem digitValue_hexDigit {n : Nat} (h : n < 16) : digitValue 16 (hexDigit n) = some n :=
  (by decide : ∀ n < 16, digitValue 16 (hexDigit n) = some n) n h

/-- A closing parenthesis is no digit, so digits end there. -/
theorem digits_close (base acc : Nat) (t : List Char) : digits base acc (')' :: t) = (acc, ')' :: t) := by
  have hclose : digitValue base ')' = none := by simp [digitValue]
  simp [digits, hclose]

/-- The two printed digits of a byte are read as its value. -/
theorem parseNumber_hexByte (v : Byte) (t : List Char) :
    parseNumber (hexByte v ++ ')' :: t) = some (v.toNat, ')' :: t) := by
  have hhigh : digitValue 16 (hexDigit (v.toNat / 16)) = some (v.toNat / 16) := digitValue_hexDigit (by omega)
  have hlow : digitValue 16 (hexDigit (v.toNat % 16)) = some (v.toNat % 16) := digitValue_hexDigit (by omega)
  have hvalue : v.toNat / 16 * 16 + v.toNat % 16 = v.toNat := by omega
  have hdigits : digits 16 (v.toNat / 16) (hexDigit (v.toNat % 16) :: ')' :: t) = (v.toNat, ')' :: t) := by
    rw [digits, hlow]
    simp only [hvalue, digits_close]
  simp [hexByte, parseNumber, afterPrefix, digits1, hhigh, hdigits]

/-- The operand of `sendAck` is printed as `0` or `1`. -/
theorem hexDigit_bit : ∀ b : Bit, (b = 0 ∧ hexDigit b.toNat = '0') ∨ (b = 1 ∧ hexDigit b.toNat = '1') := by decide

/-- The printed operand of `sendAck` is read as its value. -/
theorem parseOperand_sendAck (b : Bit) (t : List Char) :
    parseOperand .sendAck (hexDigit b.toNat :: ')' :: t) = some (b.toNat, ')' :: t) := by
  obtain ⟨rfl, hb⟩ | ⟨rfl, hb⟩ := hexDigit_bit b <;> rw [hb] <;> rfl

/-! One command. -/

/-- No spelling, with its parenthesis, begins another one, so each is found as itself. -/
theorem parseName_spelling (m : Mnemonic) (t : List Char) :
    parseName mnemonics (spelling m ++ '(' :: t) = some (m, t) := by
  cases m <;> rfl

/-- A printed command is read back as itself, and the text after it is left. -/
theorem parseCall_printInstr (i : Instr) (t : List Char) : parseCall (printInstr i ++ t) = some (callOf i, t) := by
  have hprint : printInstr i ++ t = spelling (mnemonicOf i) ++ '(' :: (operandText i ++ ')' :: ';' :: t) := by
    simp [printInstr]
  rw [hprint, parseCall, parseName_spelling]
  cases i with
  | sendByte v =>
    have hoperand : parseOperand .sendByte (hexByte v ++ ')' :: ';' :: t) = some (v.toNat, ')' :: ';' :: t) :=
      parseNumber_hexByte v (';' :: t)
    have hopen : afterPrefix [')', ';'] (hexByte v ++ ')' :: ';' :: t) = none := rfl
    simp [mnemonicOf, operandText, hopen, hoperand, afterPrefix, callOf, operandOf]
  | sendAck b =>
    have hopen : afterPrefix [')', ';'] (hexDigit b.toNat :: ')' :: ';' :: t) = none := by
      obtain ⟨-, hb⟩ | ⟨-, hb⟩ := hexDigit_bit b <;> rw [hb] <;> rfl
    simp [mnemonicOf, operandText, hopen, parseOperand_sendAck, afterPrefix, callOf, operandOf]
  | _ => simp [mnemonicOf, operandText, afterPrefix, callOf, operandOf]

/-- A printed command begins with a letter. -/
theorem printInstr_eq_cons (i : Instr) : ∃ c t, printInstr i = c :: t := by
  cases i <;> exact ⟨_, _, rfl⟩

/-- That letter is no blank. -/
theorem skipBlanks_printInstr (i : Instr) (t : List Char) : skipBlanks (printInstr i ++ t) = printInstr i ++ t := by
  cases i <;> rfl

/-! A list of commands. -/

/-- With enough fuel the assembler reads all printed commands. -/
theorem parseCalls_printed (is : List Instr) {fuel : Nat} (h : is.length ≤ fuel) :
    parseCalls fuel (is.flatMap printInstr) = some (is.map callOf) := by
  induction is generalizing fuel with
  | nil => cases fuel <;> rfl
  | cons i is ih =>
    obtain ⟨fuel, rfl⟩ : ∃ n, fuel = n + 1 := ⟨fuel - 1, by simp at h; omega⟩
    obtain ⟨c, t, hc⟩ := printInstr_eq_cons i
    have hrest := ih (fuel := fuel) (by simpa using h)
    have hskip := skipBlanks_printInstr i (is.flatMap printInstr)
    have hcall := parseCall_printInstr i (is.flatMap printInstr)
    rw [hc] at hskip hcall
    rw [List.flatMap_cons, hc, parseCalls, hskip]
    simp only [List.cons_append] at hcall ⊢
    simp [hcall, hrest]

/-- Every printed command has a character, so the length of the text is enough fuel. -/
theorem length_le_length_printed (is : List Instr) : is.length ≤ (is.flatMap printInstr).length := by
  induction is with
  | nil => simp
  | cons i is ih =>
    obtain ⟨c, t, hc⟩ := printInstr_eq_cons i
    rw [List.flatMap_cons, hc, List.length_append, List.length_cons, List.length_cons]
    omega

/-- Settles O7: the text is read as the written form of each command, each of these stands for its command, and the
words are their encodings. -/
theorem assembleOfPrintedSequence : Obligations.AssembleOfPrintedSequence := by
  intro is
  rw [assemble, parseCalls_printed is (length_le_length_printed is)]
  simp [callsInstrs_map_callOf]

/-- A written command is accepted exactly when it is well-formed. -/
theorem isSome_callInstr (c : Call) : (callInstr c).isSome = c.wf := by
  unfold callInstr
  by_cases hwf : c.wf = true
  · rw [if_pos hwf, hwf]
    split <;> rfl
  · simp [hwf]

/-- Settles O8: acceptance is `Call.wf`, which compares the operand as R89 says. -/
theorem assemblerAcceptsExactlyRange : Obligations.AssemblerAcceptsExactlyRange := by
  refine ⟨fun n => ?_, fun n => ?_, rfl, rfl, fun m hsendByte hsendAck o => ?_⟩
  · simp [isSome_callInstr, Call.wf]
  · simp [isSome_callInstr, Call.wf]
  · rw [isSome_callInstr]
    cases m with
    | sendByte => exact absurd rfl hsendByte
    | sendAck => exact absurd rfl hsendAck
    | _ => simp [Call.wf]

end Sys2Proof.Machine
end

section
/-! The events of a list of micro-operations, and of a whole command, as one list (spec/20_memory.md R65,
spec/30_encoding.md R87). -/

namespace Sys2Proof.Machine

/-- The events a list of micro-operations adds, one each. -/
def microEvents (ms : List MicroOp) (s : State) : List Event :=
  match ms with
  | [] => []
  | m :: ms => microEvent m s :: microEvents ms (performMicro m s)

section MicroEvents
variable (ms : List MicroOp) (s : State)

theorem performAll_trace : (performAll ms s).trace = s.trace ++ microEvents ms s := by
  induction ms generalizing s with
  | nil => simp [performAll, microEvents]
  | cons m ms ih => simp [performAll, microEvents, ih, performMicro, beginMicro_trace]

theorem microEvents_length : (microEvents ms s).length = ms.length := by
  induction ms generalizing s with
  | nil => rfl
  | cons m ms ih => simp [microEvents, ih]

/-- No micro-operation responds (R87). -/
theorem responses_microEvents : responses (microEvents ms s) = [] := by
  induction ms generalizing s with
  | nil => rfl
  | cons m ms ih =>
    have hcons : microEvents (m :: ms) s = [microEvent m s] ++ microEvents ms (performMicro m s) := rfl
    rw [hcons, responses_append, responses_microEvent, ih, List.nil_append]

/-- The drive registers move exactly as the events say (R65). -/
theorem driveOf_performAll : driveOf (performAll ms s) = driveEnd (driveOf s) (microEvents ms s) := by
  induction ms generalizing s with
  | nil => rfl
  | cons m ms ih => exact (ih (performMicro m s)).trans (congrArg (driveEnd · _) (beginMicro_drive m s))

/-- What a list of micro-operations appends to the trace are its events. -/
theorem microEvents_of_trace {ms : List MicroOp} {s : State} {es : List Event}
    (h : (performAll ms s).trace = s.trace ++ es) : microEvents ms s = es :=
  List.append_cancel_left ((performAll_trace ms s).symm.trans h)

end MicroEvents

/-- The state an admitted command leaves. -/
def afterCommand (i : Instr) (s : State) : State := runCommand (loadOf i) (seqOf i) (finishOf i) s

/-- The events of a command up to its response. -/
def pinEvents (i : Instr) (s : State) : List Event := microEvents (seqOf i) (loadOf i (occupy s))

section AfterCommand
variable (i : Instr) (s : State)

theorem exec_admitted {i : Instr} {s : State} (h : admitted s i = true) : exec i s = .next (afterCommand i s) :=
  exec_next i s h

theorem exec_not_admitted {i : Instr} {s : State} (h : admitted s i = false) :
    exec i s = .refused .commandBeforeInit := by
  rw [exec_eq, h]
  rfl

/-- A command adds its pin events and then its response, which is `RSP_DATA` (R87). -/
theorem afterCommand_trace : (afterCommand i s).trace =
    s.trace ++ (pinEvents i s ++ [.response (afterCommand i s).rspData]) := by
  have htrace : (performAll (seqOf i) (loadOf i (occupy s))).trace = s.trace ++ pinEvents i s := by
    rw [performAll_trace, loadOf_trace]
    rfl
  rw [afterCommand, runCommand, finishOf_trace, htrace, List.append_assoc]

theorem newEvents_afterCommand :
    newEvents s (afterCommand i s) = pinEvents i s ++ [.response (afterCommand i s).rspData] :=
  newEvents_of (afterCommand_trace i s)

theorem pinEvents_length : (pinEvents i s).length = lenOf i := microEvents_length _ _

theorem responses_pinEvents : responses (pinEvents i s) = [] := responses_microEvents _ _

@[simp] theorem afterCommand_busy : (afterCommand i s).busy = false := finishOf_busy i _
@[simp] theorem afterCommand_rspValid : (afterCommand i s).rspValid = true := finishOf_rspValid i _
@[simp] theorem afterCommand_cmdReg : (afterCommand i s).cmdReg = s.cmdReg := by simp [afterCommand, runCommand]
@[simp] theorem afterCommand_cmds : (afterCommand i s).inp.cmds = s.inp.cmds := by simp [afterCommand, runCommand]
@[simp] theorem afterCommand_pins : (afterCommand i s).inp.pins = s.inp.pins := by simp [afterCommand, runCommand]

/-- Completion moves no line, so the drive pair is the one the events lead to (R65). -/
theorem driveOf_afterCommand : driveOf (afterCommand i s) = driveEnd (driveOf s) (pinEvents i s) := by
  have hfinish : driveOf (afterCommand i s) = driveOf (performAll (seqOf i) (loadOf i (occupy s))) := by
    simp [driveOf, afterCommand, runCommand]
  have haccept : driveOf (loadOf i (occupy s)) = driveOf s := by simp [driveOf]
  rw [hfinish, driveOf_performAll, haccept]
  rfl

/-- A response moves no line. -/
theorem driveEnd_newEvents_afterCommand :
    driveEnd (driveOf s) (newEvents s (afterCommand i s)) = driveOf (afterCommand i s) := by
  rw [newEvents_afterCommand, driveEnd_append, driveOf_afterCommand]
  rfl

/-- `PHASE` changes at completion alone (R33). -/
@[simp] theorem finishOf_phase : (finishOf i s).phase = phaseAfter i s.phase := by cases i <;> rfl

@[simp] theorem afterCommand_phase : (afterCommand i s).phase = phaseAfter i s.phase := by
  simp [afterCommand, runCommand]

/-- The row of R204 for Clock. -/
@[simp] theorem afterCommand_sclDrv : (afterCommand i s).sclDrv = sclAfter i := by
  obtain ⟨-, hreceiveByte, -⟩ := afterReceiveByte_fields s
  obtain ⟨-, hreceiveAck, -⟩ := afterReceiveAck_fields s
  cases i with
  | receiveByte => exact hreceiveByte
  | receiveAck => exact hreceiveAck
  | _ => rfl

/-- The row of R204 for Data. -/
@[simp] theorem afterCommand_sdaDrv : (afterCommand i s).sdaDrv = sdaAfter i s.sdaDrv := by
  obtain ⟨hreceiveByte, -⟩ := afterReceiveByte_fields s
  obtain ⟨hreceiveAck, -⟩ := afterReceiveAck_fields s
  cases i with
  | sendByte v => exact afterSendByte_sdaDrv v s
  | receiveByte => exact hreceiveByte
  | receiveAck => exact hreceiveAck
  | _ => rfl

/-- Every delay a command asks for is answered before it completes (R113). -/
@[simp] theorem afterCommand_dlyPending : (afterCommand i s).dlyPending = none := by
  obtain ⟨-, -, hreceiveByte, -⟩ := afterReceiveByte_fields s
  obtain ⟨-, -, hreceiveAck, -⟩ := afterReceiveAck_fields s
  cases i with
  | receiveByte => exact hreceiveByte
  | receiveAck => exact hreceiveAck
  | _ => rfl

/-- A completed command leaves the pads configured: `init` configures them, the others need it (R22, R23). -/
theorem afterCommand_cfg {i : Instr} {s : State} (h : admitted s i = true) : (afterCommand i s).cfg = true := by
  obtain ⟨-, -, -, hreceiveByte, -⟩ := afterReceiveByte_fields s
  obtain ⟨-, -, -, hreceiveAck, -⟩ := afterReceiveAck_fields s
  cases i with
  | init => rfl
  | receiveByte => exact hreceiveByte.trans h
  | receiveAck => exact hreceiveAck.trans h
  | _ => exact h

end AfterCommand

end Sys2Proof.Machine
end

section
/-! The pin events of each command (spec/40_pin_driver.md R118), and what a bus monitor counts of them. -/

namespace Sys2Proof.Machine

section PinEvents
variable (s : State)

theorem pinEvents_init : pinEvents .init s = [.openDrain, .clock .high, .data .high, .initDelay] := rfl
theorem pinEvents_start : pinEvents .start s = [.clock .high, .data .high, .data .low, .clock .low] := rfl
theorem pinEvents_stop : pinEvents .stop s = [.clock .high, .data .low, .data .high] := rfl
theorem pinEvents_waitAck : pinEvents .waitAck s = [.clock .high, .clock .low] := rfl
theorem pinEvents_sendAck (b : Bit) :
    pinEvents (.sendAck b) s = [.data (levelOfBit b), .clock .high, .clock .low] := rfl

theorem pinEvents_sendByte (v : Byte) : pinEvents (.sendByte v) s = sendByteEvents v := by
  apply microEvents_of_trace
  rw [sendByteEvents_eq]
  exact performAll_sendBits_trace byteIterations (sendByteLoad v (occupy s))

theorem pinEvents_receiveByte : pinEvents .receiveByte s = receiveByteEvents (envLevels 8 s) := by
  obtain ⟨htrace, -⟩ := performAll_receiveByteSeq (receiveByteLoad (occupy s))
  rw [envLevels_receiveByteLoad, envLevels_occupy] at htrace
  exact microEvents_of_trace htrace

theorem pinEvents_receiveAck :
    pinEvents .receiveAck s = [.data .high, .clock .high, .read (envLevel s), .clock .low] := by
  obtain ⟨htrace, -⟩ := performAll_receiveAckSeq (occupy s)
  rw [envLevel_occupy] at htrace
  exact microEvents_of_trace htrace

end PinEvents

/-! Counts over events. -/

section Counts
variable {test test' : Drive → Event → Bool} {p : Drive}

/-- A test that finds no response counts the same with a response at the end. -/
theorem countEvents_concat_response (h : ∀ p v, test p (.response v) = false) (es : List Event) (v : Byte) :
    countEvents test p (es ++ [.response v]) = countEvents test p es := by
  simp [countEvents_append, countEvents, h]

/-- A stronger test counts no more. -/
theorem countEvents_le (h : ∀ p e, test p e = true → test' p e = true) (es : List Event) :
    countEvents test p es ≤ countEvents test' p es := by
  induction es generalizing p with
  | nil => rfl
  | cons e es ih =>
    have hrest := ih (p := driveAfter p e)
    simp only [countEvents]
    cases htest : test p e with
    | false => simp; omega
    | true => simp [h p e htest]; omega

/-- A loop counts nothing if each pass, begun at a drive pair of a set that every pass keeps, counts nothing. -/
theorem countEvents_flatMap_eq_zero {α : Type} (P : Drive → Prop) {pass : α → List Event}
    (hcount : ∀ x p, P p → countEvents test p (pass x) = 0) (hkeep : ∀ x p, P p → P (driveEnd p (pass x)))
    (xs : List α) (hp : P p) : countEvents test p (xs.flatMap pass) = 0 := by
  induction xs generalizing p with
  | nil => rfl
  | cons x xs ih => rw [List.flatMap_cons, countEvents_append, hcount x p hp, ih (hkeep x p hp)]

end Counts

/-- A list of events without `ReadData` reads nothing (R116). -/
theorem countEvents_read_eq_zero (p : Drive) (es : List Event) (h : ∀ l, .read l ∉ es) :
    countEvents isReadWhileDriving p es = 0 := by
  induction es generalizing p with
  | nil => rfl
  | cons e es ih =>
    have hrest := ih (driveAfter p e) fun l => List.not_mem_of_not_mem_cons (h l)
    cases e with
    | read l => exact absurd List.mem_cons_self (h l)
    | _ => simpa [countEvents, isReadWhileDriving] using hrest

/-- Every command that reads releases Data first, so none reads while it drives Data `LOW` (R116). -/
theorem countEvents_read_pinEvents (i : Instr) (p : Drive) (s : State) :
    countEvents isReadWhileDriving p (pinEvents i s) = 0 := by
  cases i with
  | receiveByte =>
    rw [pinEvents_receiveByte, receiveByteEvents, countEvents]
    simp only [isReadWhileDriving, driveAfter, Bool.false_eq_true, if_false, Nat.zero_add]
    refine countEvents_flatMap_eq_zero (fun p => p.2 = .high) ?_ ?_ _ rfl
    · intro l p hp
      simp [countEvents, isReadWhileDriving, driveAfter, hp]
    · exact fun l p hp => hp
  | receiveAck => rw [pinEvents_receiveAck]; simp [countEvents, isReadWhileDriving, driveAfter]
  | sendByte v =>
    rw [pinEvents_sendByte]
    exact countEvents_read_eq_zero p _ (by simp [sendByteEvents])
  | sendAck b => exact countEvents_read_eq_zero p _ (by simp [pinEvents_sendAck])
  | _ =>
    exact countEvents_read_eq_zero p _
      (by simp [pinEvents_init, pinEvents_start, pinEvents_stop, pinEvents_waitAck])

/-- The five byte and acknowledge commands. -/
def isTransfer (i : Instr) : Bool :=
  match i with
  | .init => false
  | .start => false
  | .stop => false
  | .sendByte _ => true
  | .receiveByte => true
  | .waitAck => true
  | .sendAck _ => true
  | .receiveAck => true

theorem isTransfer_iff (i : Instr) : isTransfer i = true ↔ i ≠ .init ∧ i ≠ .start ∧ i ≠ .stop := by
  cases i <;> simp [isTransfer]

/-- Entered with Clock `LOW`, a transfer command writes Data only with Clock `LOW`: each of its pulses ends with Clock
`LOW` again (R68). -/
theorem countEvents_dataWrite_transfer {i : Instr} (hi : isTransfer i = true) {p : Drive} (hp : p.1 = .low)
    (s : State) : countEvents isDataWriteWithClockHigh p (pinEvents i s) = 0 := by
  cases i with
  | init => cases hi
  | start => cases hi
  | stop => cases hi
  | sendByte v =>
    rw [pinEvents_sendByte, sendByteEvents]
    refine countEvents_flatMap_eq_zero (fun p => p.1 = .low) ?_ (fun _ _ _ => rfl) _ hp
    intro k p hp
    simp [countEvents, isDataWriteWithClockHigh, hp]
  | receiveByte =>
    rw [pinEvents_receiveByte, receiveByteEvents, countEvents]
    simp only [isDataWriteWithClockHigh, hp, driveAfter, reduceCtorEq, decide_false, Bool.false_eq_true, if_false,
      Nat.zero_add]
    refine countEvents_flatMap_eq_zero (fun _ => True) ?_ (fun _ _ _ => trivial) _ trivial
    intro l p _
    simp [countEvents, isDataWriteWithClockHigh]
  | waitAck => simp [pinEvents_waitAck, countEvents, isDataWriteWithClockHigh]
  | sendAck b => simp [pinEvents_sendAck, countEvents, isDataWriteWithClockHigh, hp]
  | receiveAck => simp [pinEvents_receiveAck, countEvents, isDataWriteWithClockHigh, hp]

/-- Every transfer command but `waitAck` begins with a Data write. -/
theorem pinEvents_transfer_head {i : Instr} (hi : isTransfer i = true) (hwait : i ≠ .waitAck) (s : State) :
    ∃ l es, pinEvents i s = .data l :: es := by
  cases i with
  | init => cases hi
  | start => cases hi
  | stop => cases hi
  | waitAck => exact absurd rfl hwait
  | _ => exact ⟨_, _, rfl⟩

/-- A START edge is a Data write with Clock `HIGH` (R66). -/
theorem masterStarts_le_dataWrites (p : Drive) (es : List Event) :
    masterStarts p es ≤ countEvents isDataWriteWithClockHigh p es := by
  refine countEvents_le ?_ es
  rintro p e hedge
  obtain ⟨rfl, rfl⟩ : p = (.high, .high) ∧ e = .data .low := by simpa [isMasterStart] using hedge
  rfl

/-- A STOP edge is a Data write with Clock `HIGH` (R67). -/
theorem masterStops_le_dataWrites (p : Drive) (es : List Event) :
    masterStops p es ≤ countEvents isDataWriteWithClockHigh p es := by
  refine countEvents_le ?_ es
  rintro p e hedge
  obtain ⟨rfl, rfl⟩ : p = (.high, .low) ∧ e = .data .high := by simpa [isMasterStop] using hedge
  rfl

/-- The levels at the clock pulses of the sending loop are those it puts on Data, one per pass (R162). -/
theorem clockedLevels_pulses (p : Drive) (ls : List Level) (v : Byte) :
    clockedLevels p (ls.flatMap (fun l => [.data l, .clock .high, .clock .low]) ++ [.response v]) = ls := by
  induction ls generalizing p with
  | nil => rfl
  | cons l ls ih => simpa [clockedLevels, driveAfter] using ih _

/-- One event changes at most one line (R65). -/
theorem driveAfter_one_line (p : Drive) (e : Event) : p.1 = (driveAfter p e).1 ∨ p.2 = (driveAfter p e).2 := by
  cases e with
  | clock l => exact .inr rfl
  | _ => exact .inl rfl

/-- Consecutive pairs of a drive history are those before and after one event (R65). -/
theorem driveHistory_consecutive {p q r : Drive} {es : List Event} {k : Nat} (hq : (driveHistory p es)[k]? = some q)
    (hr : (driveHistory p es)[k + 1]? = some r) : ∃ e, r = driveAfter q e := by
  induction es generalizing p k with
  | nil => simp [driveHistory] at hr
  | cons e es ih =>
    cases k with
    | zero =>
      have hhead : (driveHistory (driveAfter p e) es)[0]? = some (driveAfter p e) := by cases es <;> rfl
      simp only [driveHistory, List.getElem?_cons_zero, Option.some.injEq] at hq
      simp only [driveHistory, List.getElem?_cons_succ, hhead, Option.some.injEq] at hr
      exact ⟨e, by rw [← hr, hq]⟩
    | succ k => exact ih hq hr

/-- What a reception does to the pins does not depend on the samples (R208). -/
theorem map_eventShape_receiveByteEvents (ls : List Level) :
    (receiveByteEvents ls).map eventShape = receiveByteEvents (List.replicate ls.length .low) := by
  have hpulses : (ls.flatMap fun l => [Event.clock .high, .read l, .clock .low]).map eventShape =
      (List.replicate ls.length Level.low).flatMap fun l => [Event.clock .high, .read l, .clock .low] := by
    induction ls with
    | nil => rfl
    | cons l ls ih => simp [eventShape, ih, List.replicate_succ]
  simp [receiveByteEvents, eventShape, hpulses]

/-- The path of a command, sampled values aside, is the same from every two states (R208). -/
theorem map_eventShape_pinEvents (i : Instr) (s s' : State) :
    (pinEvents i s).map eventShape = (pinEvents i s').map eventShape := by
  cases i with
  | sendByte v => rw [pinEvents_sendByte, pinEvents_sendByte]
  | receiveByte =>
    simp only [pinEvents_receiveByte, map_eventShape_receiveByteEvents, envLevels_length]
  | receiveAck => rw [pinEvents_receiveAck, pinEvents_receiveAck]; rfl
  | _ => rfl

end Sys2Proof.Machine
end

section
/-! The obligations on one command of any kind, by its state and its events. -/

namespace Sys2Proof.Machine

/-- Settles O28: `exec` looks at the admission alone, and `CFG` decides it for all commands but `init`. -/
theorem admissionByCfg : Obligations.AdmissionByCfg := by
  refine ⟨fun i s hcfg hi => exec_not_admitted ?_, fun s => ⟨afterInit s, exec_init s⟩,
    fun i s hcfg => ⟨afterCommand i s, exec_admitted (admitted_of_cfg i s hcfg)⟩⟩
  exact Bool.eq_false_iff.mpr fun hadm => hi ((admitted_of_not_cfg i s hcfg).mp hadm)

/-- Settles O17: `afterCommand` ends where its events lead, and in a drive history two consecutive pairs are one event
apart. -/
theorem oneLineChangesPerEvent : Obligations.OneLineChangesPerEvent := by
  intro i s hadm
  refine ⟨afterCommand i s, exec_admitted hadm, driveEnd_newEvents_afterCommand i s, fun k p q hp hq => ?_⟩
  obtain ⟨e, rfl⟩ := driveHistory_consecutive hp hq
  exact driveAfter_one_line p e

/-- Settles O29: the rows of R204 are the field lemmas of `afterCommand`. -/
theorem lineLevelsAfterCommand : Obligations.LineLevelsAfterCommand :=
  ⟨⟨rfl, rfl, rfl⟩, fun i s hadm => ⟨afterCommand i s, exec_admitted hadm, afterCommand_sclDrv i s,
    afterCommand_sdaDrv i s, afterCommand_phase i s⟩⟩

/-- Settles O30: one event per micro-operation, none of them a response, and then the response. -/
theorem oneResponsePerCommand : Obligations.OneResponsePerCommand := by
  intro i s hadm
  refine ⟨afterCommand i s, pinEvents i s, exec_admitted hadm, ?_, responses_pinEvents i s, pinEvents_length i s,
    afterCommand_rspValid i s, afterCommand_busy i s⟩
  rw [afterCommand_trace, List.append_assoc]

/-- Settles O33: the pulses carry the bits of `v` in the order of `samplesOfByte`, and the command is a transfer. -/
theorem sendPutsBitsOnLine : Obligations.SendPutsBitsOnLine := by
  intro v s hcfg hscl
  have hpulses : sendByteEvents v = (samplesOfByte v).flatMap fun l => [.data l, .clock .high, .clock .low] := rfl
  refine ⟨afterCommand (.sendByte v) s, exec_admitted (admitted_of_cfg _ s hcfg), ?_, ?_⟩
  · rw [newEvents_afterCommand, pinEvents_sendByte, hpulses, clockedLevels_pulses]
  · rw [newEvents_afterCommand, dataStable, countEvents_concat_response (fun _ _ => rfl),
      countEvents_dataWrite_transfer rfl hscl]
    rfl

/-- Settles O34: with Clock `LOW` no Data write comes while it is `HIGH`; with Clock `HIGH` the first event is one. -/
theorem dataStableInTransferCommands : Obligations.DataStableInTransferCommands := by
  intro i s hcfg hinit hstart hstop
  have hi : isTransfer i = true := (isTransfer_iff i).mpr ⟨hinit, hstart, hstop⟩
  refine ⟨afterCommand i s, exec_admitted (admitted_of_cfg i s hcfg), fun hscl => ?_, fun hscl hwait => ?_⟩
  · rw [newEvents_afterCommand, dataStable, countEvents_concat_response (fun _ _ => rfl),
      countEvents_dataWrite_transfer hi hscl]
    rfl
  · obtain ⟨l, es, hhead⟩ := pinEvents_transfer_head hi hwait s
    rw [newEvents_afterCommand, hhead]
    simp [dataStable, countEvents, isDataWriteWithClockHigh, driveOf, hscl]

/-- Settles O35: no command reads while it drives Data `LOW`, and a response is no read. -/
theorem readsOnlyWhileReleased : Obligations.ReadsOnlyWhileReleased := by
  intro i s hadm
  refine ⟨afterCommand i s, exec_admitted hadm, ?_⟩
  rw [newEvents_afterCommand, readsReleased, countEvents_concat_response (fun _ _ => rfl), countEvents_read_pinEvents]
  rfl

/-- Settles O36: the edges of `startEvents`; its first two events are `C1 D1`, so the START edge is not among them and
the STOP edge, if any, is. -/
theorem startEdges : Obligations.StartEdges := by
  intro s hcfg
  have hnew : newEvents s (afterStart s) = startEvents := newEvents_of (afterStart_trace s)
  refine ⟨afterStart s, exec_start s hcfg, ?_⟩
  rw [hnew]
  refine ⟨masterStarts_startEvents _, masterStops_startEvents _, ?_, ?_⟩
  · simp [masterStops, startEvents, countEvents, isMasterStop, driveAfter, driveOf]
  · exact masterStarts_eq_zero _ _ (by decide)

/-- Settles O37: the edges of `stopEvents`; its first two events are `C1 D0`, so the STOP edge is not among them and the
START edge, if any, is. -/
theorem stopEdges : Obligations.StopEdges := by
  intro s hcfg
  have hnew : newEvents s (afterStop s) = stopEvents := newEvents_of (afterStop_trace s)
  refine ⟨afterStop s, exec_stop s hcfg, ?_⟩
  rw [hnew]
  refine ⟨masterStops_stopEvents _, masterStarts_stopEvents _, ?_, ?_⟩
  · simp [masterStarts, stopEvents, countEvents, isMasterStart, driveAfter, driveOf]
  · simp [masterStops, stopEvents, countEvents, isMasterStop, driveAfter, driveOf]

/-- Settles O41: the path of the pin events, and a response blanked is a response blanked. -/
theorem pathIndependentOfState : Obligations.PathIndependentOfState := by
  intro i s s' hadm hadm'
  refine ⟨afterCommand i s, afterCommand i s', exec_admitted hadm, exec_admitted hadm', ?_⟩
  rw [newEvents_afterCommand, newEvents_afterCommand, List.map_append, List.map_append,
    map_eventShape_pinEvents i s s']
  rfl

/-- Settles O40: both runs draw one level and differ where the sample goes, `ACKREG`, the response and the trace;
completion leaves the same free value in `ACKREG` (log 5). -/
theorem nackLeavesStateOfAck : Obligations.NackLeavesStateOfAck := by
  intro s rest hcfg
  have hnew (l : Level) := newEvents_of (afterReceiveAck_trace { s with inp := { s.inp with sdaEnv := l :: rest } })
  exact ⟨_, _, exec_receiveAck _ hcfg, exec_receiveAck _ hcfg, rfl, rfl, rfl, hnew .low, hnew .high⟩

end Sys2Proof.Machine
end

section
/-! Reset, ports and the micro-operations one by one (spec/10_state.md R36, spec/20_memory.md R52, spec/40_pin_driver.md
R112 to R118). -/

namespace Sys2Proof.Machine

/-- Settles O9: the fields of `State.reset`. -/
theorem resetStateValues : Obligations.ResetStateValues := ⟨rfl, rfl, rfl, rfl, rfl, rfl, rfl, rfl⟩

/-- `LOW` is the bit 0 (R10). -/
theorem bitOfLevel_eq_zero_iff (l : Level) : bitOfLevel l = 0 ↔ l = .low := by cases l <;> decide

/-- `HIGH` is the bit 1 (R10). -/
theorem bitOfLevel_eq_one_iff (l : Level) : bitOfLevel l = 1 ↔ l = .high := by cases l <;> decide

/-- Settles O12: each line port is the level of its line as a bit, the other ports are the fields they are named
after. -/
theorem linePortsFollowDrives : Obligations.LinePortsFollowDrives := by
  intro s env
  have hready : (outPorts s).cmdReady = true ↔ s.busy = false := by simp [outPorts, cmdReady]
  exact ⟨bitOfLevel_eq_zero_iff _, bitOfLevel_eq_one_iff _, bitOfLevel_eq_zero_iff _, bitOfLevel_eq_one_iff _,
    bitOfLevel_eq_zero_iff _, bitOfLevel_eq_one_iff _, hready, rfl, rfl⟩

/-- A read whole, its delay answered: one draw, one event, the sample stored (R112). -/
theorem performMicro_readData (d : Sink) (s : State) : performMicro (.readData d) s =
    advance (storeSample d (sdaLine s (envLevel s)) (emit (.read (sdaLine s (envLevel s))) (envDrawn s))) := by
  rw [performMicro, beginMicro, beginReadData, advance_requestDelay]

/-- A `HIGH` sample sets its bit, a `LOW` one changes nothing (R165). -/
theorem orSample_eq_ite (acc : Byte) (i : Nat) (l : Level) :
    orSample acc i l = if l = .high then acc ||| (0x80#8 >>> i) else acc := by
  cases l <;> rfl

/-- Settles O15: the fields of `performMicro_readData`; the two destinations are the cases of `storeSample`. -/
theorem readDataEffect : Obligations.ReadDataEffect := by
  intro d s
  have hbegin : (beginMicro (.readData d) s).trace = s.trace ++ [.read (sdaLine s (envLevel s))] :=
    beginMicro_trace (.readData d) s
  have hshReg (i : Nat) (hd : d = .shReg i) : (performMicro (.readData d) s).ackReg = s.ackReg ∧
      (performMicro (.readData d) s).shReg =
        if sdaLine s (envLevel s) = .high then s.shReg ||| (0x80#8 >>> i) else s.shReg := by
    subst hd
    simp [performMicro_readData, storeSample, orSample_eq_ite]
  have hackReg (hd : d = .ackReg) : (performMicro (.readData d) s).shReg = s.shReg ∧
      (performMicro (.readData d) s).ackReg = if sdaLine s (envLevel s) = .high then 1 else 0 := by
    subst hd
    cases hl : sdaLine s (envLevel s) <;> simp [performMicro_readData, storeSample, hl, ackOfSample, bitOfLevel]
  refine ⟨hbegin, rfl, hbegin, ?_, rfl, ?_, ?_, ?_, ?_, ?_, ?_, ?_, ?_, ?_, ?_, ?_, hshReg, hackReg⟩
  all_goals simp [performMicro_readData, envDrawn_sdaEnv]

/-- Settles O16: the two micro-operations as the updates they are made of; what each asks for is
`beginMicro_dlyPending`. -/
theorem configAndInitDelayEffect : Obligations.ConfigAndInitDelayEffect := by
  intro s hnone
  have hdelay (m : MicroOp) : (beginMicro m s).dlyPending = m.delay := by
    rw [beginMicro_dlyPending, hnone, Option.or_none]
  refine ⟨rfl, rfl, ?_, rfl, ?_, rfl, hdelay⟩
  · simp [performMicro, beginMicro, beginConfigOpenDrain, advance, emit, setCfg, hnone]
  · simp [performMicro, beginMicro, beginDelayInit, advance, emit, requestDelay, hnone]

/-- The three micro-operations of each pass of the sending loop stand at three times its number (R118). -/
theorem getElem?_sendByteSeq : ∀ i : Nat, i < 8 → sendByteSeq[3 * i]? = some (.writeSendBit i) ∧
    sendByteSeq[3 * i + 1]? = some (.writeClock .high) ∧ sendByteSeq[3 * i + 2]? = some (.writeClock .low) := by decide

/-- Those of the receiving loop stand one further, after the release of Data (R118). -/
theorem getElem?_receiveByteSeq : ∀ i : Nat, i < 8 → receiveByteSeq[1 + 3 * i]? = some (.writeClock .high) ∧
    receiveByteSeq[2 + 3 * i]? = some (.readData (.shReg i)) ∧
    receiveByteSeq[3 + 3 * i]? = some (.writeClock .low) := by decide

/-- Settles O18: the sequences of the loops are read off pass by pass, the others as they are written; the bit test on
`SHREG` finds bit `7 - i` (`sendLevel_eq_bitLevel`). -/
theorem microOperationTable : Obligations.MicroOperationTable := by
  refine ⟨rfl, rfl, rfl, fun v i hi => ?_, rfl, getElem?_receiveByteSeq, rfl, fun _ => rfl, rfl⟩
  obtain ⟨hwrite, hpulse⟩ := getElem?_sendByteSeq i hi
  refine ⟨⟨_, hwrite, fun s hs => ?_⟩, hpulse⟩
  rw [performMicro, beginMicro, hs, sendLevel_eq_bitLevel v i hi]
  rfl

end Sys2Proof.Machine
end

section
/-! `step`, one equation per case, and what a step of each kind leaves (spec/30_encoding.md R86, spec/40_pin_driver.md
R117). -/

namespace Sys2Proof.Machine

open Sys2Proof.Safety

section StepEquations
variable {s : State} {p : Pins} {ps : List Pins} {w : CmdWord} {ws : List CmdWord}

theorem step_calm_busy (hpins : s.inp.pins = []) (hbusy : s.busy = true) : step s = .next (microStep true s) := by
  rw [step_of_no_pins s hpins, calmStep, if_pos hbusy]

theorem step_calm_wait (hready : Ready s) (hcmds : s.inp.cmds = []) : step s = .next (waitIdle s) := by
  obtain ⟨hbusy, hpins⟩ := hready
  rw [step_of_no_pins s hpins, calmStep, hbusy, hcmds]
  rfl

theorem step_calm_command (hready : Ready s) (hcmds : s.inp.cmds = w :: ws) :
    step s = exec (decode w) (latch w s) := by
  obtain ⟨hbusy, hpins⟩ := hready
  rw [step_of_no_pins s hpins, calmStep, hbusy, hcmds]
  rfl

theorem step_reset (hpins : s.inp.pins = p :: ps) (hrst : p.rst = true) : step s = .next (resetBlock (dropPins s)) := by
  rw [step_of_pins s p ps hpins, pinStep, if_pos hrst]

theorem step_pins_busy (hpins : s.inp.pins = p :: ps) (hrst : p.rst = false) (hbusy : s.busy = true) :
    step s = .next (microStep p.dlyDone (dropPins s)) := by
  rw [step_of_pins s p ps hpins, pinStep, hrst, dropPins_busy, hbusy]
  rfl

theorem step_pins_wait (hpins : s.inp.pins = p :: ps) (hrst : p.rst = false) (hbusy : s.busy = false)
    (hnone : p.cmdValid = false ∨ s.inp.cmds = []) : step s = .next (waitIdle (dropPins s)) := by
  rw [step_of_pins s p ps hpins, pinStep, hrst, dropPins_busy, hbusy]
  rcases hnone with hvalid | hcmds
  · rw [hvalid]; rfl
  · cases p.cmdValid <;> simp [hcmds]

theorem step_pins_accept (hpins : s.inp.pins = p :: ps) (hrst : p.rst = false) (hbusy : s.busy = false)
    (hvalid : p.cmdValid = true) (hcmds : s.inp.cmds = w :: ws) :
    step s = acceptOnly (decode w) (latch w (dropPins s)) := by
  rw [step_of_pins s p ps hpins, pinStep, hrst, dropPins_busy, hbusy, hvalid, dropPins_inp, hcmds]
  rfl

end StepEquations

/-- The pins of a step that is no reset say so. -/
theorem rst_of_noReset {s : State} {p : Pins} {ps : List Pins} (h : NoReset s) (hpins : s.inp.pins = p :: ps) :
    p.rst = false := h p (by rw [hpins]; rfl)

/-- A step whose pins have `rst = 1` is a reset. -/
theorem not_noReset {s : State} {p : Pins} {ps : List Pins} (hpins : s.inp.pins = p :: ps) (hrst : p.rst = true) :
    ¬ NoReset s := by
  intro h
  rw [rst_of_noReset h hpins] at hrst
  cases hrst

/-- The queue of a state with the first word taken off. -/
theorem latch_eq {s : State} {w : CmdWord} {ws : List CmdWord} (hcmds : s.inp.cmds = w :: ws) :
    latch w s = { s with cmdReg := w, rspValid := false, inp := { s.inp with cmds := ws } } := by
  simp [latch, hcmds]

/-- The pins of a state with the first micro-step taken off. -/
theorem dropPins_eq {s : State} {p : Pins} {ps : List Pins} (hpins : s.inp.pins = p :: ps) :
    dropPins s = { s with inp := { s.inp with pins := ps } } := by
  simp [dropPins, hpins]

/-- With no pins left there is nothing to use up. -/
theorem dropPins_of_nil {s : State} (hpins : s.inp.pins = []) : dropPins s = s := by
  have htail : s.inp.pins.tail = s.inp.pins := by rw [hpins]; rfl
  rw [dropPins, htail]

/-- Accept of an admitted command. -/
theorem acceptOnly_admitted {i : Instr} {s : State} (h : admitted s i = true) :
    acceptOnly i s = .next (loadOf i (occupy s)) := by
  rw [acceptOnly, if_pos h]

theorem acceptOnly_not_admitted {i : Instr} {s : State} (h : admitted s i = false) :
    acceptOnly i s = .refused .commandBeforeInit := by
  rw [acceptOnly, h]
  rfl

/-- If accept answers a next state, the command was admitted. -/
theorem acceptOnly_cases {i : Instr} {s t : State} (h : acceptOnly i s = .next t) :
    admitted s i = true ∧ t = loadOf i (occupy s) := by
  rw [acceptOnly] at h
  split at h
  · exact ⟨‹_›, by cases h; rfl⟩
  · cases h

/-- Admission looks at `CFG` alone. -/
theorem admitted_congr {s t : State} (i : Instr) (h : t.cfg = s.cfg) : admitted t i = admitted s i := by
  cases i <;> simp [admitted, h]

/-- The kinds of step that answer a next state, the two grains taken together: a micro-step, a wait, a whole command, a
reset, an accept. -/
theorem step_kinds {s t : State} (h : step s = .next t) :
    (∃ done, s.busy = true ∧ t = microStep done (dropPins s)) ∨
    (s.busy = false ∧ t = waitIdle (dropPins s)) ∨
    (∃ w, s.busy = false ∧ admitted s (decode w) = true ∧ t = afterCommand (decode w) (latch w s)) ∨
    (¬ NoReset s ∧ t = resetBlock (dropPins s)) ∨
    (∃ w, s.busy = false ∧ admitted s (decode w) = true ∧ t = loadOf (decode w) (occupy (latch w (dropPins s)))) := by
  obtain ⟨hpins, hbusy, rfl⟩ | ⟨hpins, hbusy, -, rfl⟩ | ⟨w, ws, -, hbusy, -, hexec⟩ | ⟨p, ps, hpins, hrst, rfl⟩ |
    ⟨p, ps, -, -, hbusy, rfl⟩ | ⟨p, ps, -, -, hbusy, -, rfl⟩ | ⟨p, ps, w, ws, -, -, hbusy, -, -, haccept⟩ :=
    step_cases h
  · exact .inl ⟨true, hbusy, by rw [dropPins_of_nil hpins]⟩
  · exact .inr (.inl ⟨hbusy, by rw [dropPins_of_nil hpins]⟩)
  · obtain ⟨hadm, rfl⟩ := exec_cases hexec
    exact .inr (.inr (.inl ⟨w, hbusy, (admitted_congr _ rfl).symm.trans hadm, rfl⟩))
  · exact .inr (.inr (.inr (.inl ⟨not_noReset hpins hrst, rfl⟩)))
  · exact .inl ⟨p.dlyDone, hbusy, rfl⟩
  · exact .inr (.inl ⟨hbusy, rfl⟩)
  · obtain ⟨hadm, rfl⟩ := acceptOnly_cases haccept
    exact .inr (.inr (.inr (.inr ⟨w, hbusy, (admitted_congr _ rfl).symm.trans hadm, rfl⟩)))

/-- `SHREG` is loaded by the two byte commands alone (R86). -/
theorem loadOf_shReg {i : Instr} (hsend : opcode i ≠ 3) (hreceive : opcode i ≠ 4) (s : State) :
    (loadOf i s).shReg = s.shReg := by
  cases i with
  | sendByte v => exact absurd rfl hsend
  | receiveByte => exact absurd rfl hreceive
  | _ => rfl

theorem decode_of_opField_three {w : CmdWord} (h : opField w = 3) : decode w = .sendByte (argField w) := by
  simp [decode, h]

theorem decode_of_opField_four {w : CmdWord} (h : opField w = 4) : decode w = .receiveByte := by
  simp [decode, h]

/-- Settles O10: the fields of `resetBlock`, which leaves the inputs but for the pins used up. -/
theorem resetWinsAtOnce : Obligations.ResetWinsAtOnce := by
  intro s p ps hpins hrst
  refine ⟨resetBlock (dropPins s), step_reset hpins hrst, rfl, rfl, rfl, rfl, rfl, rfl, rfl, rfl, rfl, rfl, rfl, ?_⟩
  simp [hpins]

/-- Settles O43: the step of a command, with its `latch` written out. -/
theorem stepRunsPresentedCommand : Obligations.StepRunsPresentedCommand := by
  intro s w ws hready hcmds
  rw [step_calm_command hready hcmds, latch_eq hcmds]

/-- Settles O44: both waiting steps are `waitIdle`, at the micro grain with the pins used up. -/
theorem idleBlockWaits : Obligations.IdleBlockWaits := by
  refine ⟨fun s hready hcmds => step_calm_wait hready hcmds, fun s p ps hbusy hpins hrst hnone => ?_⟩
  rw [step_pins_wait hpins hrst hbusy hnone, dropPins_eq hpins]
  rfl

/-- Settles O45: the accepting step is `latch`, `occupy` and `loadOf`, whose fields are these. -/
theorem acceptLoadsSequencer : Obligations.AcceptLoadsSequencer := by
  intro s p ps w ws hpins hrst hvalid hbusy hcmds hadm
  have hadm' : admitted (latch w (dropPins s)) (decode w) = true := (admitted_congr (decode w) rfl).trans hadm
  refine ⟨loadOf (decode w) (occupy (latch w (dropPins s))), ?_, ?_, ?_, ?_, ?_, ?_, ?_, ?_⟩
  · rw [step_pins_accept hpins hrst hbusy hvalid hcmds, acceptOnly_admitted hadm']
  · simp
  · simp
  · simp
  · intro hop
    rw [decode_of_opField_three hop]
    rfl
  · intro hop
    rw [decode_of_opField_four hop]
    rfl
  · rw [← opcode_decode]
    exact fun hsend hreceive => loadOf_shReg hsend hreceive _
  · simp [hcmds, hpins]

/-- Settles O46: a busy step without reset is a micro-step, which leaves the command port alone. -/
theorem busyBlockIgnoresCommandPort : Obligations.BusyBlockIgnoresCommandPort := by
  intro s hbusy hnoReset
  cases hpins : s.inp.pins with
  | nil => exact ⟨_, step_calm_busy hpins hbusy, microStep_cmds true s, microStep_cmdReg true s⟩
  | cons p ps =>
    exact ⟨_, step_pins_busy hpins (rst_of_noReset hnoReset hpins) hbusy, microStep_cmds p.dlyDone (dropPins s),
      microStep_cmdReg p.dlyDone (dropPins s)⟩

/-- A step answers a next state, or refuses a word it would accept but for the admission of R23. -/
theorem step_next_or_refused (s : State) : (∃ t, step s = .next t) ∨
    s.busy = false ∧ ∃ w ws, s.inp.cmds = w :: ws ∧ admitted s (decode w) = false ∧
      step s = .refused .commandBeforeInit := by
  cases hpins : s.inp.pins with
  | nil =>
    cases hbusy : s.busy with
    | true => exact .inl ⟨_, step_calm_busy hpins hbusy⟩
    | false =>
      cases hcmds : s.inp.cmds with
      | nil => exact .inl ⟨_, step_calm_wait ⟨hbusy, hpins⟩ hcmds⟩
      | cons w ws =>
        have hstep := step_calm_command ⟨hbusy, hpins⟩ hcmds
        have hlatch : admitted (latch w s) (decode w) = admitted s (decode w) := admitted_congr _ rfl
        cases hadm : admitted s (decode w) with
        | true => exact .inl ⟨_, hstep.trans (exec_admitted (hlatch.trans hadm))⟩
        | false => exact .inr ⟨rfl, w, ws, rfl, hadm, hstep.trans (exec_not_admitted (hlatch.trans hadm))⟩
  | cons p ps =>
    cases hrst : p.rst with
    | true => exact .inl ⟨_, step_reset hpins hrst⟩
    | false =>
      cases hbusy : s.busy with
      | true => exact .inl ⟨_, step_pins_busy hpins hrst hbusy⟩
      | false =>
        cases hvalid : p.cmdValid with
        | false => exact .inl ⟨_, step_pins_wait hpins hrst hbusy (.inl hvalid)⟩
        | true =>
          cases hcmds : s.inp.cmds with
          | nil => exact .inl ⟨_, step_pins_wait hpins hrst hbusy (.inr hcmds)⟩
          | cons w ws =>
            have hstep := step_pins_accept hpins hrst hbusy hvalid hcmds
            have hlatch : admitted (latch w (dropPins s)) (decode w) = admitted s (decode w) := admitted_congr _ rfl
            cases hadm : admitted s (decode w) with
            | true => exact .inl ⟨_, hstep.trans (acceptOnly_admitted (hlatch.trans hadm))⟩
            | false => exact .inr ⟨rfl, w, ws, rfl, hadm, hstep.trans (acceptOnly_not_admitted (hlatch.trans hadm))⟩

/-- Settles O53: a step that answers no next state is the refusal of `step_next_or_refused`, and with `CFG = 1`, or for
`init`, there is none. -/
theorem noFaultAndRefusalOnlyBeforeInit : Obligations.NoFaultAndRefusalOnlyBeforeInit := by
  refine ⟨fun _ r => (nomatch r), fun s r h => ?_⟩
  obtain ⟨t, ht⟩ | ⟨hbusy, w, ws, hcmds, hnot, hrefused⟩ := step_next_or_refused s
  · rw [ht] at h
    cases h
  · have hr : r = .commandBeforeInit := by
      rw [hrefused] at h
      cases h
      rfl
    have hcfg : s.cfg = false :=
      Bool.eq_false_iff.mpr fun hcfg => absurd (admitted_of_cfg (decode w) s hcfg) (by simp [hnot])
    have hinit : decode w ≠ .init := by
      intro hinit
      rw [hinit] at hnot
      cases hnot
    exact ⟨hr, hcfg, hbusy, w, ws, hcmds, hinit⟩

end Sys2Proof.Machine
end

section
/-! The invariant of the machine (spec/10_state.md R22 to R28, spec/43_byte_transfer.md R161): kept by each kind of
step. -/

namespace Sys2Proof.Machine

open Sys2Proof.Safety

/-- Nothing runs, no delay is outstanding, and `PHASE` has left `UNINIT` exactly when the pads are configured: all the
invariant asks of a state between commands. -/
theorem inv_idle {s : State} (hbusy : s.busy = false) (hdly : s.dlyPending = none)
    (hphase : s.phase = .uninit ↔ s.cfg = false) : Inv s where
  busyShape := by simp [BusyShape, hbusy]
  delayShape := by simp [DelayShape, hbusy, hdly]
  configShape := by
    refine ⟨by simp [hbusy], fun hne => ?_, fun hcfg huninit => ?_⟩
    · exact Bool.not_eq_false _ ▸ mt hphase.mpr hne
    · rw [hphase.mp huninit] at hcfg
      cases hcfg
  readShape := by simp [ReadShape, hbusy]
  sendShape := by simp [SendShape, hbusy]

/-- What the invariant says between commands. -/
theorem phase_of_inv_idle {s : State} (hinv : Inv s) (hbusy : s.busy = false) : s.phase = .uninit ↔ s.cfg = false := by
  obtain ⟨-, hcfg, huninit⟩ := hinv.configShape
  constructor
  · intro hphase
    refine Bool.eq_false_iff.mpr fun h => ?_
    rw [(huninit h hphase).1] at hbusy
    cases hbusy
  · intro h
    by_contra hne
    rw [hcfg hne] at h
    cases h

/-- The invariant does not mention the inputs from outside. -/
theorem inv_dropPins {s : State} (hinv : Inv s) : Inv (dropPins s) :=
  ⟨hinv.busyShape, hinv.delayShape, hinv.configShape, hinv.readShape, hinv.sendShape⟩

theorem inv_resetBlock (s : State) : Inv (resetBlock s) := inv_idle rfl rfl (by simp)

theorem inv_waitIdle {s : State} (hinv : Inv s) (hbusy : s.busy = false) : Inv (waitIdle s) := by
  have hphase := phase_of_inv_idle hinv hbusy
  exact inv_idle hbusy (hinv.delayShape.1 hbusy) hphase

/-- A command whose `PHASE` could still be `UNINIT` is `init`, and that leaves `IDLE` (R33). -/
theorem phaseAfter_ne_uninit {i : Instr} {p : Phase} (h : p = .uninit → i = .init) : phaseAfter i p ≠ .uninit := by
  cases i with
  | init => nofun
  | start => nofun
  | stop => nofun
  | _ => exact fun hp => nomatch h hp

/-- A completed command leaves the invariant (R87). -/
theorem inv_completed {t : State} (hbusy : t.busy = false) (hdly : t.dlyPending = none) (hcfg : t.cfg = true)
    (hphase : t.phase ≠ .uninit) : Inv t :=
  inv_idle hbusy hdly (by simp [hcfg, hphase])

/-- A whole command, run from a state between commands, leaves the invariant. -/
theorem inv_afterCommand {i : Instr} {s : State} (hphase : s.phase = .uninit → s.cfg = false)
    (hadm : admitted s i = true) : Inv (afterCommand i s) :=
  inv_completed (afterCommand_busy i s) (afterCommand_dlyPending i s) (afterCommand_cfg hadm)
    (by
      rw [afterCommand_phase]
      exact phaseAfter_ne_uninit fun huninit => (admitted_of_not_cfg i s (hphase huninit)).mp hadm)

/-- Every command has a micro-operation (R28). -/
theorem lenOf_pos (i : Instr) : 0 < lenOf i := by cases i <;> exact Nat.succ_pos _

/-- Accept leaves the invariant: `UPC` is 0, nothing has begun, and `sendByte` has loaded its byte (R86). -/
theorem inv_accept {i : Instr} {s : State} (hi : decode s.cmdReg = i) (hrsp : s.rspValid = false)
    (hdly : s.dlyPending = none) (hphase : s.phase = .uninit ↔ s.cfg = false) (hadm : admitted s i = true) :
    Inv (loadOf i (occupy s)) where
  busyShape := fun _ => by simpa [hi, hrsp] using lenOf_pos i
  delayShape := by simp [DelayShape, hdly]
  configShape := by
    refine ⟨fun _ hcfg => ?_, fun hne => ?_, fun hcfg huninit => ?_⟩
    · simp only [loadOf_cfg, occupy_cfg] at hcfg
      simpa [hi] using (admitted_of_not_cfg i s hcfg).mp hadm
    · simpa [hphase] using hne
    · simp [hphase.mp (by simpa using huninit)] at hcfg
  readShape := by simp [ReadShape, hdly]
  sendShape := by
    intro _ v hv
    rw [loadOf_cmdReg, occupy_cmdReg, hi] at hv
    rw [hv]
    rfl

/-! A micro-operation begun. -/

/-- A micro-operation that leaves a released Data line released. -/
def keepsReleased (m : MicroOp) : Bool :=
  match m with
  | .configOpenDrain => true
  | .writeClock _ => true
  | .writeData l => l = .high
  | .writeSendBit _ => false
  | .readData _ => true
  | .delayInit => true

theorem beginMicro_sdaDrv_of_keepsReleased {m : MicroOp} {s : State} (hm : keepsReleased m = true)
    (hs : s.sdaDrv = .high) : (beginMicro m s).sdaDrv = .high := by
  cases m with
  | writeData l => simpa [keepsReleased] using hm
  | writeSendBit i => cases hm
  | readData d => simpa [beginMicro, beginReadData] using hs
  | _ => exact hs

/-- The two commands that read begin by releasing Data and never hold it (R165, R186). -/
theorem keepsReleased_of_reads {i : Instr} (hi : i = .receiveByte ∨ i = .receiveAck) :
    (seqOf i)[0]? = some (.writeData .high) ∧ ∀ m ∈ seqOf i, keepsReleased m = true := by
  rcases hi with rfl | rfl <;> decide

/-- `ConfigOpenDrain` is the first micro-operation of `init`, and of no other command one at all (R118). -/
theorem eq_init_of_configOpenDrain {i : Instr} (h : .configOpenDrain ∈ seqOf i) : i = .init := by
  cases i with
  | init => rfl
  | sendAck b => simp [seqOf, sendAckSeq] at h
  | sendByte v => exact absurd h (show MicroOp.configOpenDrain ∉ sendByteSeq by decide)
  | _ => exact absurd h (by decide)

section Begun
variable {s : State} {m : MicroOp}

/-- With the micro-operation at `UPC` begun the pads are configured: before, only `init` runs, and this is its
`ConfigOpenDrain` (R22). -/
theorem begunMicro_cfg_of_inv (hinv : Inv s) (hbusy : s.busy = true)
    (hm : (seqOf (decode s.cmdReg))[s.upc.toNat]? = some m) : (begunMicro m s).cfg = true := by
  have hbegin (hcfg : s.cfg = true) : (begunMicro m s).cfg = true := by
    unfold begunMicro
    split
    · exact hcfg
    · rw [beginMicro_cfg, hcfg, Bool.true_or]
  cases hcfg : s.cfg with
  | true => exact hbegin hcfg
  | false =>
    obtain ⟨hinit, hupc⟩ := hinv.configShape.1 hbusy hcfg
    have hconfig : m = .configOpenDrain := by
      rw [hinit, hupc] at hm
      exact (Option.some.inj hm).symm
    have hnone : s.dlyPending = none := by
      by_contra hsome
      obtain ⟨m', hm', hdelay⟩ := hinv.delayShape.2 hbusy (Option.isSome_iff_ne_none.mpr hsome)
      rw [hm, hconfig, Option.some.injEq] at hm'
      rw [← hm'] at hdelay
      exact hsome hdelay
    rw [begunMicro_of_none m s hnone, beginMicro_cfg, hconfig]
    simp

/-- A command that reads has Data released with every micro-operation begun (R116). -/
theorem begunMicro_sdaDrv_of_inv (hinv : Inv s) (hbusy : s.busy = true)
    (hm : (seqOf (decode s.cmdReg))[s.upc.toNat]? = some m)
    (hreads : decode s.cmdReg = .receiveByte ∨ decode s.cmdReg = .receiveAck) : (begunMicro m s).sdaDrv = .high := by
  obtain ⟨hfirst, hkeep⟩ := keepsReleased_of_reads hreads
  cases hdly : s.dlyPending with
  | some k =>
    have hpending : s.dlyPending.isSome = true := by rw [hdly]; rfl
    rw [begunMicro_of_pending m s hpending]
    exact hinv.readShape hbusy hreads (.inr hpending)
  | none =>
    rw [begunMicro_of_none m s hdly]
    by_cases hupc : s.upc = 0
    · rw [hupc] at hm
      obtain rfl : MicroOp.writeData .high = m := Option.some.inj (hfirst.symm.trans hm)
      rfl
    · exact beginMicro_sdaDrv_of_keepsReleased (hkeep m (List.mem_of_getElem? hm))
        (hinv.readShape hbusy hreads (.inl hupc))

/-- `sendByte` reads nothing, so its byte stays in `SHREG` (R161). -/
theorem begunMicro_shReg_of_inv (hinv : Inv s) (hbusy : s.busy = true)
    (hm : (seqOf (decode s.cmdReg))[s.upc.toNat]? = some m) {v : Byte} (hsend : decode s.cmdReg = .sendByte v) :
    (begunMicro m s).shReg = v := by
  have hshReg : s.shReg = v := hinv.sendShape hbusy v hsend
  unfold begunMicro
  split
  · exact hshReg
  · have hmem : m ∈ sendByteSeq := by
      rw [hsend] at hm
      exact List.mem_of_getElem? hm
    rw [beginMicro_shReg m s fun i hread => readData_not_mem_sendByteSeq (.shReg i) (hread ▸ hmem), hshReg]

/-- The delay outstanding with a micro-operation begun is the one it asks for (R113, R233). -/
theorem begunMicro_dlyPending_of_inv (hinv : Inv s) (hbusy : s.busy = true)
    (hm : (seqOf (decode s.cmdReg))[s.upc.toNat]? = some m) : (begunMicro m s).dlyPending = m.delay := by
  cases hdly : s.dlyPending with
  | none => rw [begunMicro_of_none m s hdly, beginMicro_dlyPending, hdly, Option.or_none]
  | some k =>
    have hpending : s.dlyPending.isSome = true := by rw [hdly]; rfl
    obtain ⟨m', hm', hdelay⟩ := hinv.delayShape.2 hbusy hpending
    rw [hm, Option.some.injEq] at hm'
    rw [begunMicro_of_pending m s hpending, hm', hdelay]

/-- Before the command completes `PHASE` is `UNINIT` only in `init` (R33). -/
theorem eq_init_of_uninit (hinv : Inv s) (hbusy : s.busy = true) (hphase : s.phase = .uninit) :
    decode s.cmdReg = .init := by
  cases hcfg : s.cfg with
  | true => exact (hinv.configShape.2.2 hcfg hphase).2
  | false => exact (hinv.configShape.1 hbusy hcfg).1

/-- What holds of a state inside a command with the micro-operation at `UPC` begun or just ended: the invariant, but for
`UPC` and the delay outstanding. -/
structure InCommand (t : State) : Prop where
  busy : t.busy = true
  rspValid : t.rspValid = false
  cfg : t.cfg = true
  init : t.phase = .uninit → decode t.cmdReg = .init
  released : decode t.cmdReg = .receiveByte ∨ decode t.cmdReg = .receiveAck → t.sdaDrv = .high
  sending : ∀ v, decode t.cmdReg = .sendByte v → t.shReg = v

theorem inCommand_begunMicro (hinv : Inv s) (hbusy : s.busy = true)
    (hm : (seqOf (decode s.cmdReg))[s.upc.toNat]? = some m) : InCommand (begunMicro m s) where
  busy := by rw [begunMicro_busy, hbusy]
  rspValid := by rw [begunMicro_rspValid, (hinv.busyShape hbusy).2]
  cfg := begunMicro_cfg_of_inv hinv hbusy hm
  init := by
    rw [begunMicro_phase, begunMicro_cmdReg]
    exact eq_init_of_uninit hinv hbusy
  released := by
    rw [begunMicro_cmdReg]
    exact begunMicro_sdaDrv_of_inv hinv hbusy hm
  sending := by
    rw [begunMicro_cmdReg]
    exact fun v => begunMicro_shReg_of_inv hinv hbusy hm

/-- The end of a micro-operation touches none of this. -/
theorem InCommand.advance {t : State} (h : InCommand t) : InCommand (advance t) :=
  ⟨h.busy, h.rspValid, h.cfg, h.init, h.released, h.sending⟩

theorem InCommand.inv {t : State} (h : InCommand t) (hupc : t.upc.toNat < lenOf (decode t.cmdReg))
    (hdelay : t.dlyPending.isSome = true → ∃ m, (seqOf (decode t.cmdReg))[t.upc.toNat]? = some m ∧
      t.dlyPending = m.delay) : Inv t where
  busyShape := fun _ => ⟨hupc, h.rspValid⟩
  delayShape := by
    refine ⟨fun hidle => ?_, fun _ => hdelay⟩
    rw [h.busy] at hidle
    cases hidle
  configShape := by
    refine ⟨fun _ hnot => ?_, fun _ => h.cfg, fun _ huninit => ⟨h.busy, h.init huninit⟩⟩
    rw [h.cfg] at hnot
    cases hnot
  readShape := fun _ hreads _ => h.released hreads
  sendShape := fun _ => h.sending

end Begun

/-- `UPC` does not wrap inside a command (R28). -/
theorem upc_succ_toNat {i : Instr} {u : BitVec 5} (h : u.toNat + 1 < lenOf i) : (u + 1).toNat = u.toNat + 1 := by
  have hlen := lenOf_le i
  have hlt : u.toNat + (1 : BitVec 5).toNat < 2 ^ 5 := by
    simp
    omega
  exact BitVec.toNat_add_of_lt hlt

/-- A busy block is at one of its command's micro-operations (R28). -/
theorem exists_microOp {s : State} (hinv : Inv s) (hbusy : s.busy = true) :
    ∃ m, (seqOf (decode s.cmdReg))[s.upc.toNat]? = some m :=
  ⟨_, List.getElem?_eq_getElem (hinv.busyShape hbusy).1⟩

/-- A micro-step keeps the invariant: it waits, goes on to the next index, or completes the command. -/
theorem inv_microStep {s : State} (done : Bool) (hinv : Inv s) (hbusy : s.busy = true) : Inv (microStep done s) := by
  obtain ⟨m, hm⟩ := exists_microOp hinv hbusy
  have hbegun : InCommand (begunMicro m s) := inCommand_begunMicro hinv hbusy hm
  obtain ⟨-, -, hwaits⟩ | ⟨hnext, hadvances⟩ | ⟨-, hcompletes⟩ := microStep_cases m done s hm
  · have hupc : s.upc.toNat < lenOf (decode s.cmdReg) := (hinv.busyShape hbusy).1
    rw [hwaits]
    refine hbegun.inv (by simpa using hupc) fun _ => ⟨m, ?_, begunMicro_dlyPending_of_inv hinv hbusy hm⟩
    rw [begunMicro_cmdReg, begunMicro_upc, hm]
  · rw [hadvances]
    refine hbegun.advance.inv ?_ nofun
    rw [advance_upc, begunMicro_upc, upc_succ_toNat hnext]
    simpa using hnext
  · rw [hcompletes]
    refine inv_completed (by simp) (by simp) (by simpa using hbegun.cfg) ?_
    rw [finishOf_phase, advance_phase, begunMicro_phase]
    exact phaseAfter_ne_uninit (eq_init_of_uninit hinv hbusy)

/-- Settles O54: nothing runs at reset, no delay is outstanding, and the pads are not configured. -/
theorem invariantAtReset : Obligations.InvariantAtReset := inv_idle rfl rfl ⟨fun _ => rfl, fun _ => rfl⟩

/-- Settles O55: the kinds of step, each by its lemma. -/
theorem invariantKeptByStep : Obligations.InvariantKeptByStep := by
  intro s t hinv hstep
  obtain ⟨done, hbusy, rfl⟩ | ⟨hbusy, rfl⟩ | ⟨w, hbusy, hadm, rfl⟩ | ⟨-, rfl⟩ | ⟨w, hbusy, hadm, rfl⟩ :=
    step_kinds hstep
  · exact inv_microStep done (inv_dropPins hinv) hbusy
  · exact inv_waitIdle (inv_dropPins hinv) hbusy
  · exact inv_afterCommand (phase_of_inv_idle hinv hbusy).mp ((admitted_congr _ rfl).trans hadm)
  · exact inv_resetBlock _
  · have hphase := phase_of_inv_idle hinv hbusy
    exact inv_accept rfl rfl (hinv.delayShape.1 hbusy) hphase ((admitted_congr _ rfl).trans hadm)

end Sys2Proof.Machine
end

section
/-! The micro-step (spec/40_pin_driver.md R113, R117): when it ends its micro-operation, when it waits, and all it can
have done, in any state. -/

namespace Sys2Proof.Machine

open Sys2Proof.Safety

section MicroStep
variable {s : State} {m : MicroOp} {done : Bool}

/-- A micro-operation that asks for no delay, or whose delay is answered, ends. -/
theorem microStep_ends (hm : (seqOf (decode s.cmdReg))[s.upc.toNat]? = some m)
    (h : done = true ∨ (begunMicro m s).dlyPending = none) :
    microStep done s = endMicro (decode s.cmdReg) (begunMicro m s) := by
  have hends : ((begunMicro m s).dlyPending.isSome && !done) = false := by
    rcases h with h | h <;> simp [h]
  unfold microStep
  rw [hm]
  simp only [hends, Bool.false_eq_true, if_false]

/-- A micro-operation whose delay is not answered has begun, and no more (R113). -/
theorem microStep_waits (hm : (seqOf (decode s.cmdReg))[s.upc.toNat]? = some m)
    (h : (begunMicro m s).dlyPending.isSome = true) : microStep false s = begunMicro m s := by
  unfold microStep
  rw [hm]
  simp only [h, Bool.not_false, Bool.and_self, if_true]

/-- Everything a micro-step can have done, in any state: a micro-operation of the command begun or nothing, its delay
ended or not, the command completed or not. -/
theorem microStep_inversion (done : Bool) (s : State) : ∃ b c,
    (b = s ∨ ∃ m ∈ seqOf (decode s.cmdReg), b = beginMicro m s) ∧ (c = b ∨ c = advance b) ∧
      (microStep done s = c ∨ microStep done s = finishOf (decode s.cmdReg) c) := by
  cases hm : (seqOf (decode s.cmdReg))[s.upc.toNat]? with
  | none =>
    refine ⟨s, s, .inl rfl, .inl rfl, .inr ?_⟩
    unfold microStep
    rw [hm]
  | some m =>
    have hbegun : begunMicro m s = s ∨ ∃ m' ∈ seqOf (decode s.cmdReg), begunMicro m s = beginMicro m' s := by
      unfold begunMicro
      split
      · exact .inl rfl
      · exact .inr ⟨m, List.mem_of_getElem? hm, rfl⟩
    obtain ⟨-, -, h⟩ | ⟨-, h⟩ | ⟨-, h⟩ := microStep_cases m done s hm
    · exact ⟨_, _, hbegun, .inl rfl, .inl h⟩
    · exact ⟨_, _, hbegun, .inr rfl, .inl h⟩
    · exact ⟨_, _, hbegun, .inr rfl, .inr h⟩

/-- A micro-step sets `CFG` only in `init` and clears it never (R22). -/
theorem microStep_cfg (done : Bool) (s : State) :
    (microStep done s).cfg = s.cfg ∨ (microStep done s).cfg = true ∧ decode s.cmdReg = .init := by
  obtain ⟨b, c, hb, hc, ht⟩ := microStep_inversion done s
  have hcfg : (microStep done s).cfg = b.cfg := by
    rcases hc with rfl | rfl <;> rcases ht with ht | ht <;> simp [ht]
  rw [hcfg]
  obtain rfl | ⟨m, hm, rfl⟩ := hb
  · exact .inl rfl
  · by_cases hconfig : m = .configOpenDrain
    · subst hconfig
      exact .inr ⟨rfl, eq_init_of_configOpenDrain hm⟩
    · exact .inl (by simp [beginMicro_cfg, hconfig])

/-- A micro-step appends to the trace (R32). -/
theorem microStep_trace (done : Bool) (s : State) : ∃ es, (microStep done s).trace = s.trace ++ es := by
  obtain ⟨b, c, hb, hc, ht⟩ := microStep_inversion done s
  have hbegin : ∃ es, b.trace = s.trace ++ es := by
    obtain rfl | ⟨m, -, rfl⟩ := hb
    · exact ⟨[], (List.append_nil _).symm⟩
    · exact ⟨_, beginMicro_trace m s⟩
  have hend : c.trace = b.trace := by rcases hc with rfl | rfl <;> rfl
  obtain ⟨es, hes⟩ := hbegin
  rcases ht with ht | ht
  · exact ⟨es, by rw [ht, hend, hes]⟩
  · exact ⟨es ++ _, by rw [ht, finishOf_trace, hend, hes, List.append_assoc]⟩

/-- A micro-step changes `PHASE` only by completing its command (R33). -/
theorem microStep_phase (done : Bool) (s : State) : (microStep done s).phase = s.phase ∨
    (microStep done s).busy = false ∧ (microStep done s).rspValid = true ∧
      (microStep done s).phase = phaseAfter (decode s.cmdReg) s.phase := by
  obtain ⟨b, c, hb, hc, ht⟩ := microStep_inversion done s
  have hphase : c.phase = s.phase := by
    rcases hc with rfl | rfl <;> obtain rfl | ⟨m, -, rfl⟩ := hb <;> simp
  rcases ht with ht | ht
  · exact .inl (by rw [ht, hphase])
  · exact .inr ⟨by simp [ht], by simp [ht], by rw [ht, finishOf_phase, hphase]⟩

end MicroStep

/-- Only `init`, `start` and `stop` change `PHASE` (R33). -/
theorem phaseAfter_changes {i : Instr} {p : Phase} (h : phaseAfter i p ≠ p) :
    (i = .init ∧ phaseAfter i p = .idle) ∨ (i = .start ∧ phaseAfter i p = .captured) ∨
      (i = .stop ∧ phaseAfter i p = .idle) := by
  cases i with
  | init => exact .inl ⟨rfl, rfl⟩
  | start => exact .inr (.inl ⟨rfl, rfl⟩)
  | stop => exact .inr (.inr ⟨rfl, rfl⟩)
  | _ => exact absurd rfl h

/-- Settles O50: `CFG` is cleared by reset alone, and set by a whole `init` or by one of its micro-steps. -/
theorem cfgChangesOnlySo : Obligations.CfgChangesOnlySo := by
  refine ⟨rfl, fun s t hstep => ?_⟩
  have unchanged (h : t.cfg = s.cfg) :
      (s.cfg = true → t.cfg = false → ¬ NoReset s) ∧ (s.cfg = false → t.cfg = true → decode t.cmdReg = .init) := by
    simp_all
  have setByInit (h : t.cfg = true) (hinit : s.cfg = false → decode t.cmdReg = .init) :
      (s.cfg = true → t.cfg = false → ¬ NoReset s) ∧ (s.cfg = false → t.cfg = true → decode t.cmdReg = .init) := by
    simp_all
  obtain ⟨done, -, rfl⟩ | ⟨-, rfl⟩ | ⟨w, -, hadm, rfl⟩ | ⟨hreset, rfl⟩ | ⟨w, -, -, rfl⟩ := step_kinds hstep
  · obtain h | ⟨h, hinit⟩ := microStep_cfg done (dropPins s)
    · exact unchanged h
    · exact setByInit h fun _ => by rwa [microStep_cmdReg]
  · exact unchanged rfl
  · refine setByInit (afterCommand_cfg ((admitted_congr _ rfl).trans hadm)) fun hcfg => ?_
    rw [afterCommand_cmdReg]
    exact (admitted_of_not_cfg _ s hcfg).mp hadm
  · exact ⟨fun _ _ => hreset, fun _ h => by cases h⟩
  · exact unchanged (by simp)

/-- Settles O51: `PHASE` is written by reset and by a completion, whole or of a micro-step, with the row of
`phaseAfter`. -/
theorem phaseChangesOnlySo : Obligations.PhaseChangesOnlySo := by
  refine ⟨rfl, fun s => ⟨_, exec_init s, rfl⟩, fun s hcfg => ⟨_, exec_start s hcfg, rfl⟩,
    fun s hcfg => ⟨_, exec_stop s hcfg, rfl⟩, fun s t hstep hchange => ?_⟩
  have completed {i : Instr} (hi : decode t.cmdReg = i) (hphase : t.phase = phaseAfter i s.phase) :
      (decode t.cmdReg = .init ∧ t.phase = .idle) ∨ (decode t.cmdReg = .start ∧ t.phase = .captured) ∨
        (decode t.cmdReg = .stop ∧ t.phase = .idle) := by
    rw [hi, hphase]
    exact phaseAfter_changes (hphase ▸ hchange)
  obtain ⟨done, -, rfl⟩ | ⟨-, rfl⟩ | ⟨w, -, -, rfl⟩ | ⟨hreset, rfl⟩ | ⟨w, -, -, rfl⟩ := step_kinds hstep
  · obtain h | ⟨hbusy, hrsp, hphase⟩ := microStep_phase done (dropPins s)
    · exact absurd h hchange
    · exact .inr ⟨hbusy, hrsp, completed (by rw [microStep_cmdReg]) hphase⟩
  · exact absurd rfl hchange
  · exact .inr ⟨afterCommand_busy _ _, afterCommand_rspValid _ _,
      completed (by rw [afterCommand_cmdReg, latch_cmdReg]) (afterCommand_phase _ _)⟩
  · exact .inl ⟨hreset, rfl⟩
  · exact absurd (by simp) hchange

/-- Settles O52: the kinds of step; only a reset takes something from the trace. -/
theorem traceOnlyGrows : Obligations.TraceOnlyGrows := by
  intro s t hstep
  obtain ⟨done, -, rfl⟩ | ⟨-, rfl⟩ | ⟨w, -, -, rfl⟩ | ⟨hreset, rfl⟩ | ⟨w, -, -, rfl⟩ := step_kinds hstep
  · exact .inl (microStep_trace done (dropPins s))
  · exact .inl ⟨[], (List.append_nil _).symm⟩
  · exact .inl ⟨_, afterCommand_trace (decode w) (latch w s)⟩
  · exact .inr ⟨hreset, rfl⟩
  · exact .inl ⟨[], by simp⟩

end Sys2Proof.Machine
end

section
/-! The delay handshake and the reset edge (spec/60_exceptions.md R233, spec/70_reset_and_hazards.md R252, R253). -/

namespace Sys2Proof.Machine

open Sys2Proof.Safety

/-- Every micro-operation but `ConfigOpenDrain` asks for a delay (R114). -/
theorem isSome_delay_iff (m : MicroOp) : m.delay.isSome = true ↔ m ≠ .configOpenDrain := by
  cases m <;> simp [MicroOp.delay]

/-- The delay of `Delay(INIT)` is the init delay, that of every other one the settle delay (R113). -/
theorem delay_eq_ite {m : MicroOp} (hm : m ≠ .configOpenDrain) :
    m.delay = some (if m = .delayInit then .init else .settle) := by
  cases m with
  | configOpenDrain => exact absurd rfl hm
  | _ => simp [MicroOp.delay]

@[simp] theorem endMicro_dlyPending (i : Instr) (s : State) : (endMicro i s).dlyPending = none := by
  unfold endMicro; split <;> simp

/-- A micro-operation that begins adds its one event and moves its line; one that was waiting does neither again. -/
theorem begunMicro_events (m : MicroOp) (s : State) : ∃ es, (begunMicro m s).trace = s.trace ++ es ∧
    responses es = [] ∧
    (s.dlyPending = none → es = [microEvent m s] ∧ driveOf (begunMicro m s) = driveOf (performMicro m s)) ∧
    (s.dlyPending.isSome = true → es = [] ∧ driveOf (begunMicro m s) = driveOf s) := by
  cases hdly : s.dlyPending with
  | none =>
    rw [begunMicro_of_none m s hdly]
    exact ⟨_, beginMicro_trace m s, responses_microEvent m s, fun _ => ⟨rfl, rfl⟩, nofun⟩
  | some k =>
    rw [begunMicro_of_pending m s (by rw [hdly]; rfl)]
    exact ⟨[], (List.append_nil _).symm, rfl, nofun, fun _ => ⟨rfl, rfl⟩⟩

/-- The event of a micro-operation does not depend on the pins. -/
theorem microEvent_dropPins (m : MicroOp) (s : State) : microEvent m (dropPins s) = microEvent m s := by
  cases m <;> rfl

/-- Nor do the drives it leaves. -/
theorem driveOf_performMicro_dropPins (m : MicroOp) (s : State) :
    driveOf (performMicro m (dropPins s)) = driveOf (performMicro m s) := by
  have hdrive (s : State) : driveOf (performMicro m s) = driveAfter (driveOf s) (microEvent m s) := beginMicro_drive m s
  rw [hdrive, hdrive, microEvent_dropPins]
  rfl

/-- The step of a busy block whose micro-operation's delay is answered, or that needs none. -/
theorem step_ends_micro {s : State} {m : MicroOp} (hinv : Inv s) (hbusy : s.busy = true)
    (hm : (seqOf (decode s.cmdReg))[s.upc.toNat]? = some m)
    (hanswered : s.inp.pins = [] ∨
      ∃ p ps, s.inp.pins = p :: ps ∧ p.rst = false ∧ (p.dlyDone = true ∨ m = .configOpenDrain)) :
    step s = .next (endMicro (decode s.cmdReg) (begunMicro m (dropPins s))) := by
  obtain hpins | ⟨p, ps, hpins, hrst, hdone⟩ := hanswered
  · rw [step_calm_busy hpins hbusy, microStep_ends hm (.inl rfl), dropPins_of_nil hpins]
  · have hmicro : (seqOf (decode (dropPins s).cmdReg))[(dropPins s).upc.toNat]? = some m := hm
    have hends : p.dlyDone = true ∨ (begunMicro m (dropPins s)).dlyPending = none := by
      refine hdone.imp_right fun hconfig => ?_
      rw [begunMicro_dlyPending_of_inv (inv_dropPins hinv) hbusy hmicro, hconfig]
      rfl
    rw [step_pins_busy hpins hrst hbusy, microStep_ends hmicro hends]
    rfl

/-- Settles O47: the step is `step_ends_micro`; what has begun is `begunMicro_events`, and `endMicro` goes on or
completes as `UPC` says. -/
theorem microStepAdvancesOrCompletes : Obligations.MicroStepAdvancesOrCompletes := by
  intro s m hinv hbusy hm hanswered
  obtain ⟨es, htrace, hresponses, hbegins, hwaited⟩ := begunMicro_events m (dropPins s)
  have hdrive : driveOf (endMicro (decode s.cmdReg) (begunMicro m (dropPins s))) =
      driveOf (begunMicro m (dropPins s)) := by simp [driveOf]
  refine ⟨_, es, step_ends_micro hinv hbusy hm hanswered, by simp, by simp, by simp, hresponses, fun hnone => ?_,
    fun hsome => ?_, fun hnext => ?_, fun hlast => ?_⟩
  · obtain ⟨rfl, hdriven⟩ := hbegins hnone
    refine ⟨rfl, ?_, ?_⟩
    · rw [microEvent_dropPins]
      exact beginMicro_trace m s
    · rw [hdrive, hdriven, driveOf_performMicro_dropPins]
  · obtain ⟨rfl, hdriven⟩ := hwaited hsome
    exact ⟨rfl, hdrive.trans hdriven⟩
  · have hadvance : endMicro (decode s.cmdReg) (begunMicro m (dropPins s)) = advance (begunMicro m (dropPins s)) :=
      if_pos (by simpa using hnext)
    rw [hadvance]
    refine ⟨by simpa using hbusy, ?_, htrace⟩
    simpa using upc_succ_toNat hnext
  · have hfinish : endMicro (decode s.cmdReg) (begunMicro m (dropPins s)) =
        finishOf (decode s.cmdReg) (advance (begunMicro m (dropPins s))) := if_neg (by simp; omega)
    rw [hfinish]
    refine ⟨by simp, by simp, ?_⟩
    rw [finishOf_trace, advance_trace, htrace]
    rfl

/-- One unanswered wait uses up its pins and does nothing else (R113). -/
theorem step_unanswered {s : State} {p : Pins} {ps : List Pins} (hinv : Inv s) (hbusy : s.busy = true)
    (hsome : s.dlyPending.isSome = true) (hpins : s.inp.pins = p :: ps) (hrst : p.rst = false)
    (hdone : p.dlyDone = false) : step s = .next (dropPins s) := by
  obtain ⟨m, hm⟩ := exists_microOp (inv_dropPins hinv) hbusy
  have hbegun : begunMicro m (dropPins s) = dropPins s := begunMicro_of_pending m _ hsome
  rw [step_pins_busy hpins hrst hbusy, hdone, microStep_waits hm (by rw [hbegun]; exact hsome), hbegun]

/-! Runs. -/

section Run
variable {n : Nat}

theorem run_succ_of_step_next (M : Host.Core) {s t : M.State} (h : M.step s = .next t) :
    M.run (n + 1) s = M.run n t := by
  rw [Host.Core.run, h]

theorem run_succ_of_step_refused (M : Host.Core) {s : M.State} {r : M.Refusal} (h : M.step s = .refused r) :
    M.run (n + 1) s = .refused r := by
  rw [Host.Core.run, h]

variable {s t : State}

theorem run_succ_of_next (h : step s = .next t) : Host.Core.run core (n + 1) s = Host.Core.run core n t :=
  run_succ_of_step_next core h

theorem run_succ_of_refused {r : Refusal} (h : step s = .refused r) : Host.Core.run core (n + 1) s = .refused r :=
  run_succ_of_step_refused core h

/-- A run of `m + n` steps is one of `m` steps, then one of `n`. -/
theorem run_add {m : Nat} (h : Host.Core.run core m s = .next t) :
    Host.Core.run core (m + n) s = Host.Core.run core n t := by
  induction m generalizing s with
  | zero =>
    cases h
    rw [Nat.zero_add]
  | succ m ih =>
    rw [Nat.succ_add_eq_add_succ, Nat.add_succ]
    obtain ⟨u, hu⟩ | ⟨-, w, ws, -, -, hrefused⟩ := step_next_or_refused s
    · rw [run_succ_of_next hu] at h ⊢
      exact ih h
    · rw [run_succ_of_refused hrefused] at h
      cases h

end Run

/-- Settles O48: each wait is `step_unanswered`, after which the same holds of the rest of the pins. -/
theorem unansweredDelayHoldsBlock : Obligations.UnansweredDelayHoldsBlock := by
  intro waits rest
  induction waits with
  | nil =>
    rintro s - - - - hpins
    rw [← show s.inp.pins = rest from hpins]
    rfl
  | cons p waits ih =>
    intro s hinv hbusy hsome hwaits hpins
    obtain ⟨⟨hrst, hdone⟩, hrest⟩ := List.forall_mem_cons.mp hwaits
    have hdropped : (dropPins s).inp.pins = waits ++ rest := by simp [hpins]
    rw [List.length_cons, run_succ_of_next (step_unanswered hinv hbusy hsome hpins hrst hdone),
      ih (dropPins s) (inv_dropPins hinv) hbusy hsome hrest hdropped]
    rfl

/-- Settles O59: the request is that of `Laws/Ports`, and the step that is not answered is `microStep_waits`. -/
theorem delayRequestPulse : Obligations.DelayRequestPulse := by
  have noPulse {s : State} (h : delayRequest s = none) : (outPorts s).dlyReq = false := by simp [outPorts, h]
  refine ⟨fun s hidle => noPulse (delayRequest_of_idle s hidle),
    fun s hsome => noPulse (delayRequest_of_pending s hsome), fun s m hbusy hnone hm => ?_⟩
  have hrequest : delayRequest s = m.delay := delayRequest_of_begin s m hbusy hnone hm
  have hkind {k : DelayKind} (hk : m.delay = some k) : (outPorts s).dlyKind = dlyKindBit k := by
    simp [outPorts, hrequest, hk]
  refine ⟨?_, ?_, ?_, fun p ps hpins hrst hdone hconfig => ?_⟩
  · rw [outPorts, hrequest]
    exact isSome_delay_iff m
  · rintro rfl
    exact hkind rfl
  · intro hinit hconfig
    rw [hkind (delay_eq_ite hconfig), if_neg hinit]
    rfl
  · have hmicro : (seqOf (decode (dropPins s).cmdReg))[(dropPins s).upc.toNat]? = some m := hm
    have hbegun : begunMicro m (dropPins s) = beginMicro m (dropPins s) := begunMicro_of_none m _ hnone
    have hdelay : (beginMicro m (dropPins s)).dlyPending = some (if m = .delayInit then .init else .settle) := by
      rw [beginMicro_dlyPending, delay_eq_ite hconfig]
      rfl
    have hsome : (beginMicro m (dropPins s)).dlyPending.isSome = true := by rw [hdelay]; rfl
    refine ⟨beginMicro m (dropPins s), ?_, by rw [dropPins_eq hpins], hdelay,
      noPulse (delayRequest_of_pending _ hsome), ?_, ?_⟩
    · rw [step_pins_busy hpins hrst hbusy, hdone, microStep_waits hmicro (by rw [hbegun]; exact hsome), hbegun]
    · rw [beginMicro_busy, dropPins_busy, hbusy]
    · rw [beginMicro_upc, dropPins_upc]

/-- Settles O60: the reset state has both lines released and an empty trace; its edge is read off the pair before. -/
theorem resetStopEdge : Obligations.ResetStopEdge := by
  intro s p ps hpins hrst
  have hreset : resetsNext s = true := by
    unfold resetsNext
    rw [hpins]
    exact hrst
  refine ⟨resetBlock (dropPins s), step_reset hpins hrst, rfl, by simp [newEvents], by simp [stepMasterStarts, hreset],
    fun hdrive => ?_, fun hsda => ?_⟩
  · simp [stepMasterStops, hreset, hdrive, isResetStop, isWireResetStop]
  · cases hscl : s.sclDrv <;> simp [stepMasterStops, hreset, driveOf, hscl, hsda, isResetStop]

end Sys2Proof.Machine
end

section
/-! The two grains of a step (log 1): a command run one micro-operation at a time ends as the command run whole. -/

namespace Sys2Proof.Machine

open Sys2Proof.Safety

/-- With no request outstanding and the delay answered, a micro-step below the last index performs its
micro-operation. -/
theorem microStep_performs {s : State} {m : MicroOp} (hm : (seqOf (decode s.cmdReg))[s.upc.toNat]? = some m)
    (hnone : s.dlyPending = none) (hnext : s.upc.toNat + 1 < lenOf (decode s.cmdReg)) :
    microStep true s = performMicro m s := by
  rw [microStep_ends hm (.inl rfl), begunMicro_of_none m s hnone, endMicro, beginMicro_upc, if_pos hnext, performMicro]

/-- At the last index it also completes the command. -/
theorem microStep_completes {s : State} {m : MicroOp} (hm : (seqOf (decode s.cmdReg))[s.upc.toNat]? = some m)
    (hnone : s.dlyPending = none) (hlast : ¬ s.upc.toNat + 1 < lenOf (decode s.cmdReg)) :
    microStep true s = finishOf (decode s.cmdReg) (performMicro m s) := by
  rw [microStep_ends hm (.inl rfl), begunMicro_of_none m s hnone, endMicro, beginMicro_upc, if_neg hlast, performMicro]

/-- The first of the micro-operations left is the one at `UPC`, and as many are left as the length says. -/
theorem microOp_of_left {i : Instr} {k : Nat} {m : MicroOp} {ms : List MicroOp} (hleft : (seqOf i).drop k = m :: ms) :
    (seqOf i)[k]? = some m ∧ lenOf i = k + 1 + ms.length ∧ (seqOf i).drop (k + 1) = ms := by
  have hlen := congrArg List.length hleft
  rw [List.length_drop, List.length_cons] at hlen
  refine ⟨?_, by rw [lenOf]; omega, ?_⟩
  · rw [← Nat.add_zero k, ← List.getElem?_drop, hleft]
    rfl
  · rw [← List.tail_drop, hleft]
    rfl

/-- Undisturbed micro-steps perform the micro-operations left of a command, one each, and complete it. -/
theorem run_microSteps (ms : List MicroOp) {m : MicroOp} {s : State} (hbusy : s.busy = true) (hpins : s.inp.pins = [])
    (hnone : s.dlyPending = none) (hleft : (seqOf (decode s.cmdReg)).drop s.upc.toNat = m :: ms) :
    Host.Core.run core (m :: ms).length s = .next (finishOf (decode s.cmdReg) (performAll (m :: ms) s)) := by
  obtain ⟨hm, hlen, hrest⟩ := microOp_of_left hleft
  rw [List.length_cons, run_succ_of_next (step_calm_busy hpins hbusy)]
  induction ms generalizing m s with
  | nil =>
    rw [microStep_completes hm hnone (by simp [hlen])]
    rfl
  | cons m' ms ih =>
    have hnext : s.upc.toNat + 1 < lenOf (decode s.cmdReg) := by
      rw [hlen, List.length_cons]
      omega
    have hupc : (performMicro m s).upc.toNat = s.upc.toNat + 1 := by
      simpa [performMicro] using upc_succ_toNat hnext
    have hcmdReg : (performMicro m s).cmdReg = s.cmdReg := by simp [performMicro]
    have hleft' : (seqOf (decode (performMicro m s).cmdReg)).drop (performMicro m s).upc.toNat = m' :: ms := by
      rw [hcmdReg, hupc, hrest]
    obtain ⟨hm', hlen', hrest'⟩ := microOp_of_left hleft'
    have hbusy' : (performMicro m s).busy = true := by simpa [performMicro] using hbusy
    have hpins' : (performMicro m s).inp.pins = [] := by simpa [performMicro] using hpins
    rw [microStep_performs hm hnone hnext, List.length_cons, run_succ_of_next (step_calm_busy hpins' hbusy'),
      ih hbusy' hpins' rfl hleft' hm' hlen' hrest', hcmdReg]
    rfl

/-- Settles O49: the accepting step leaves the whole sequence to perform, and `run_microSteps` performs it; a command
that is not admitted is refused at both grains. -/
theorem microStepsComposeCommand : Obligations.MicroStepsComposeCommand := by
  intro s p w ws hready hnone hcmds hrst hvalid
  obtain ⟨hbusy, hpins⟩ := hready
  have hdropped : dropPins { s with inp := { s.inp with pins := [p] } } = s := by
    rw [dropPins_eq (p := p) (ps := []) rfl, ← hpins]
  have haccept : step { s with inp := { s.inp with pins := [p] } } = acceptOnly (decode w) (latch w s) := by
    have hstep := step_pins_accept (s := { s with inp := { s.inp with pins := [p] } }) rfl hrst hbusy hvalid hcmds
    rw [hstep, hdropped]
  rw [step_calm_command ⟨hbusy, hpins⟩ hcmds]
  cases hadm : admitted (latch w s) (decode w) with
  | false =>
    rw [exec_not_admitted hadm]
    exact run_succ_of_refused (haccept.trans (acceptOnly_not_admitted hadm))
  | true =>
    obtain ⟨m, ms, hseq⟩ := List.exists_cons_of_length_pos (lenOf_pos (decode w))
    have hmicro := run_microSteps ms (s := loadOf (decode w) (occupy (latch w s))) (by simp) (by simpa using hpins)
      (by simpa using hnone) (by simpa using hseq)
    rw [loadOf_cmdReg, occupy_cmdReg, latch_cmdReg, ← hseq] at hmicro
    rw [run_succ_of_next (haccept.trans (acceptOnly_admitted hadm)), exec_admitted hadm]
    exact hmicro

end Sys2Proof.Machine
end

section
/-! The registers a command does not read (spec/10_state.md R26, R27, R36). -/

namespace Sys2Proof.Machine

open Sys2Proof.Safety

/-- The same state with other contents of `SHREG`, `ACKREG` and `RSP_DATA`. -/
def withRegs (h : Byte) (a : Bit) (r : Byte) (s : State) : State := { s with shReg := h, ackReg := a, rspData := r }

/-- Two states that differ in these three registers at most. -/
def SameButRegs (s s' : State) : Prop := ∃ h a r, s' = withRegs h a r s

/-- A draw does not look at them. -/
theorem envDrawn_withRegs (h : Byte) (a : Bit) (r : Byte) (s : State) :
    envDrawn (withRegs h a r s) = withRegs h a r (envDrawn s) := by
  unfold envDrawn
  cases hs : s.inp.sdaEnv <;> simp [withRegs, hs]

/-- A read puts the same sample into registers that differ. -/
theorem sameButRegs_readData (d : Sink) (h : Byte) (a : Bit) (r : Byte) (s : State) :
    SameButRegs (performMicro (.readData d) s) (performMicro (.readData d) (withRegs h a r s)) := by
  rw [performMicro_readData, performMicro_readData, envDrawn_withRegs]
  cases d with
  | shReg i => exact ⟨_, _, _, rfl⟩
  | ackReg => exact ⟨_, _, _, rfl⟩

/-- Only the send path reads one of the three, and that is `SHREG` (R161). -/
theorem sameButRegs_performMicro {m : MicroOp} {s s' : State} (hsame : SameButRegs s s')
    (hm : (∀ i, m ≠ .writeSendBit i) ∨ s'.shReg = s.shReg) : SameButRegs (performMicro m s) (performMicro m s') := by
  obtain ⟨h, a, r, rfl⟩ := hsame
  cases m with
  | readData d => exact sameButRegs_readData d h a r s
  | writeSendBit i =>
    obtain rfl : h = s.shReg := hm.resolve_left fun hne => hne i rfl
    exact ⟨_, _, _, rfl⟩
  | _ => exact ⟨_, _, _, rfl⟩

/-- The sample of a read is the same in both states. -/
theorem sdaLine_envLevel_of_sameButRegs {s s' : State} (hsame : SameButRegs s s') :
    sdaLine s' (envLevel s') = sdaLine s (envLevel s) := by
  obtain ⟨h, a, r, rfl⟩ := hsame
  rfl

/-- `SHREG` is written from itself and the sample alone. -/
theorem performMicro_shReg_of_sameButRegs (m : MicroOp) {s s' : State} (hsame : SameButRegs s s')
    (hshReg : s'.shReg = s.shReg) : (performMicro m s').shReg = (performMicro m s).shReg := by
  by_cases hread : ∃ i, m = .readData (.shReg i)
  · obtain ⟨i, rfl⟩ := hread
    simp [performMicro_readData, storeSample, sdaLine_envLevel_of_sameButRegs hsame, hshReg]
  · have hne : ∀ i, m ≠ .readData (.shReg i) := fun i hi => hread ⟨i, hi⟩
    exact (beginMicro_shReg m s' hne).trans (hshReg.trans (beginMicro_shReg m s hne).symm)

/-- From the same `SHREG` every list of micro-operations leaves the same `SHREG`. -/
theorem sameButRegs_performAll_of_shReg (ms : List MicroOp) {s s' : State} (hsame : SameButRegs s s')
    (hshReg : s'.shReg = s.shReg) : SameButRegs (performAll ms s) (performAll ms s') ∧
      (performAll ms s').shReg = (performAll ms s).shReg := by
  induction ms generalizing s s' with
  | nil => exact ⟨hsame, hshReg⟩
  | cons m ms ih =>
    exact ih (sameButRegs_performMicro hsame (.inr hshReg)) (performMicro_shReg_of_sameButRegs m hsame hshReg)

/-- A list without the send path reads none of the three. -/
theorem sameButRegs_performAll (ms : List MicroOp) {s s' : State} (hsame : SameButRegs s s')
    (hms : ∀ i, .writeSendBit i ∉ ms) : SameButRegs (performAll ms s) (performAll ms s') := by
  induction ms generalizing s s' with
  | nil => exact hsame
  | cons m ms ih =>
    have hm : ∀ i, m ≠ .writeSendBit i := fun i => (List.ne_of_not_mem_cons (hms i)).symm
    exact ih (sameButRegs_performMicro hsame (.inl hm)) fun i => List.not_mem_of_not_mem_cons (hms i)

/-- Completion overwrites `SHREG` and `RSP_DATA`, so at most `ACKREG` still differs (R26, R87). -/
theorem complete_of_sameButRegs {s s' : State} (v : Byte) (hsame : SameButRegs s s') :
    complete v s' = setAckReg s'.ackReg (complete v s) := by
  obtain ⟨h, a, r, rfl⟩ := hsame
  rfl

theorem setAckReg_self (s : State) : setAckReg s.ackReg s = s := rfl

/-- `receiveAck` writes `ACKREG` before reading it, and leaves a free value there (R27, R186). -/
theorem afterReceiveAck_of_sameButRegs {s s' : State} (hsame : SameButRegs (occupy s) (occupy s')) :
    afterReceiveAck s' = afterReceiveAck s := by
  have henv : envLevel s' = envLevel s := by
    obtain ⟨h, a, r, heq⟩ := hsame
    rw [← envLevel_occupy s', heq, ← envLevel_occupy s]
    rfl
  obtain ⟨h, a, r, heq⟩ := sameButRegs_performAll receiveAckSeq hsame (by simp [receiveAckSeq])
  rw [afterReceiveAck_eq_complete, afterReceiveAck_eq_complete, henv, heq]
  rfl

/-- A command accepted in two such states ends in the same state, `ACKREG` aside: the byte commands load `SHREG` first,
and the others do not read it (R86). -/
theorem afterCommand_of_sameButRegs (i : Instr) {s s' : State} (hsame : SameButRegs (occupy s) (occupy s')) :
    ∃ a, afterCommand i s' = setAckReg a (afterCommand i s) := by
  cases i with
  | receiveAck =>
    have hend : afterCommand .receiveAck s' = afterCommand .receiveAck s := afterReceiveAck_of_sameButRegs hsame
    exact ⟨_, hend.trans (setAckReg_self _).symm⟩
  | receiveByte =>
    obtain ⟨h, a, r, heq⟩ := hsame
    have hload : SameButRegs (receiveByteLoad (occupy s)) (receiveByteLoad (occupy s')) := ⟨0, a, r, by rw [heq]; rfl⟩
    obtain ⟨hend, hshReg⟩ := sameButRegs_performAll_of_shReg receiveByteSeq hload rfl
    have hafter (s : State) : afterCommand .receiveByte s = complete
        (performAll receiveByteSeq (receiveByteLoad (occupy s))).shReg
        (performAll receiveByteSeq (receiveByteLoad (occupy s))) := rfl
    refine ⟨(performAll receiveByteSeq (receiveByteLoad (occupy s'))).ackReg, ?_⟩
    rw [hafter, hafter, hshReg]
    exact complete_of_sameButRegs _ hend
  | sendByte v =>
    obtain ⟨h, a, r, heq⟩ := hsame
    have hload : SameButRegs (sendByteLoad v (occupy s)) (sendByteLoad v (occupy s')) := ⟨v, a, r, by rw [heq]; rfl⟩
    exact ⟨_, complete_of_sameButRegs 0x00 (sameButRegs_performAll_of_shReg sendByteSeq hload rfl).1⟩
  | _ =>
    obtain ⟨h, a, r, heq⟩ := hsame
    refine ⟨a, ?_⟩
    rw [afterCommand, runCommand, heq]
    rfl

/-- Settles O42: accept overwrites `CMDREG` and `UPC`, so the accepted states differ in the other three registers at
most, which the command does not read. -/
theorem unspecifiedRegistersNotRead : Obligations.UnspecifiedRegistersNotRead := by
  intro s w ws c h a r u hready hcmds hadm
  let s' : State := { s with cmdReg := c, shReg := h, ackReg := a, rspData := r, upc := u }
  have hsame : SameButRegs (occupy (latch w s)) (occupy (latch w s')) := ⟨h, a, r, rfl⟩
  have hstep : step s = .next (afterCommand (decode w) (latch w s)) :=
    (step_calm_command hready hcmds).trans (exec_admitted ((admitted_congr _ rfl).trans hadm))
  have hstep' : step s' = .next (afterCommand (decode w) (latch w s')) :=
    (step_calm_command (s := s') hready hcmds).trans (exec_admitted ((admitted_congr _ rfl).trans hadm))
  obtain ⟨b, hend⟩ := afterCommand_of_sameButRegs (decode w) hsame
  refine ⟨_, _, hstep, hstep', by rw [hend]; rfl, fun hreceive => ?_⟩
  rw [hreceive]
  exact afterReceiveAck_of_sameButRegs hsame

end Sys2Proof.Machine
end

section
/-! Runs of commands, one step each, with what they add to the trace (spec/45_transactions.md R201 to R205). -/

namespace Sys2Proof.Machine

open Sys2Proof.Safety

/-- `n` commands run from `s` end in `t` and add the events `es`: one response a command, the drive pair the one the
events lead to, and the block between commands with its pads configured. -/
structure CommandRun (n : Nat) (s t : State) (es : List Event) : Prop where
  run : Host.Core.run core n s = .next t
  trace : t.trace = s.trace ++ es
  drive : driveOf t = driveEnd (driveOf s) es
  responses : (responses es).length = n
  ready : Ready t
  cfg : t.cfg = true

theorem CommandRun.refl {s : State} (hready : Ready s) (hcfg : s.cfg = true) : CommandRun 0 s s [] :=
  ⟨rfl, (List.append_nil _).symm, rfl, rfl, hready, hcfg⟩

theorem CommandRun.trans {m n : Nat} {s t u : State} {es fs : List Event} (hst : CommandRun m s t es)
    (htu : CommandRun n t u fs) : CommandRun (m + n) s u (es ++ fs) where
  run := (run_add hst.run).trans htu.run
  trace := by rw [htu.trace, hst.trace, List.append_assoc]
  drive := by rw [htu.drive, hst.drive, driveEnd_append]
  responses := by rw [responses_append, List.length_append, hst.responses, htu.responses]
  ready := htu.ready
  cfg := htu.cfg

/-- All the events of a command, its response included. -/
def commandEvents (i : Instr) (s : State) : List Event := pinEvents i s ++ [.response (afterCommand i s).rspData]

/-- The state after the presented command `i`. -/
def afterPresented (i : Instr) (s : State) : State := afterCommand i (latch (encode i) s)

/-- One step runs the presented command. -/
theorem commandRun_presented {i : Instr} {s : State} {ws : List CmdWord} (hready : Ready s)
    (hcmds : s.inp.cmds = encode i :: ws) (hadm : admitted s i = true) :
    CommandRun 1 s (afterPresented i s) (commandEvents i (latch (encode i) s)) where
  run := by
    have hadm' : admitted (latch (encode i) s) i = true := (admitted_congr i rfl).trans hadm
    have hstep : step s = .next (afterPresented i s) := by
      rw [step_calm_command hready hcmds, decode_encode, exec_admitted hadm']
      rfl
    rw [run_succ_of_next hstep]
    rfl
  trace := afterCommand_trace i _
  drive := by
    rw [commandEvents, driveEnd_append]
    exact driveOf_afterCommand i (latch (encode i) s)
  responses := by rw [commandEvents, responses_append, responses_pinEvents]; rfl
  ready := ⟨afterCommand_busy i _, by rw [afterPresented, afterCommand_pins]; exact hready.2⟩
  cfg := afterCommand_cfg ((admitted_congr i rfl).trans hadm)

section Presented
variable (i : Instr) {s : State} {ws : List CmdWord}

theorem afterPresented_cmds (hcmds : s.inp.cmds = encode i :: ws) : (afterPresented i s).inp.cmds = ws := by
  simp [afterPresented, hcmds]

@[simp] theorem afterPresented_phase : (afterPresented i s).phase = phaseAfter i s.phase := afterCommand_phase i _
@[simp] theorem afterPresented_sclDrv : (afterPresented i s).sclDrv = sclAfter i := afterCommand_sclDrv i _

end Presented

/-- A transfer command leaves `PHASE` alone and Clock `LOW` (R33, R204). -/
theorem phaseAfter_transfer {i : Instr} (hi : isTransfer i = true) (p : Phase) :
    phaseAfter i p = p ∧ sclAfter i = .low := by
  cases i with
  | init => cases hi
  | start => cases hi
  | stop => cases hi
  | _ => exact ⟨rfl, rfl⟩

/-- Transfer commands run from Clock `LOW` keep Data stable while Clock is `HIGH` (R68, R205). -/
theorem commandRun_transfers (is : List Instr) (his : ∀ i ∈ is, isTransfer i = true) {s : State} {ws : List CmdWord}
    (hready : Ready s) (hcfg : s.cfg = true) (hscl : s.sclDrv = .low) (hcmds : s.inp.cmds = is.map encode ++ ws) :
    ∃ t es, CommandRun is.length s t es ∧ t.inp.cmds = ws ∧ t.phase = s.phase ∧ t.sclDrv = .low ∧
      countEvents isDataWriteWithClockHigh (driveOf s) es = 0 := by
  induction is generalizing s with
  | nil => exact ⟨s, [], .refl hready hcfg, hcmds, rfl, hscl, rfl⟩
  | cons i is ih =>
    obtain ⟨hi, his⟩ := List.forall_mem_cons.mp his
    obtain ⟨hphase, hsclAfter⟩ := phaseAfter_transfer hi s.phase
    have hone := commandRun_presented hready hcmds (admitted_of_cfg i s hcfg)
    obtain ⟨t, es, hrun, htcmds, htphase, htscl, hstable⟩ := ih his hone.ready hone.cfg
      ((afterPresented_sclDrv i).trans hsclAfter) (afterPresented_cmds i hcmds)
    refine ⟨t, _, by rw [List.length_cons, Nat.add_comm]; exact hone.trans hrun, htcmds, ?_, htscl, ?_⟩
    · rw [htphase, afterPresented_phase, hphase]
    · rw [countEvents_append, ← hone.drive, hstable, commandEvents, countEvents_concat_response (fun _ _ => rfl),
        countEvents_dataWrite_transfer hi hscl]

/-- The commands of the units of a transaction are transfers (R201). -/
theorem isTransfer_of_mem_unitsCommands (us : List TransferUnit) : ∀ i ∈ unitsCommands us, isTransfer i = true := by
  have hunit (u : TransferUnit) : ∀ i ∈ u.commands, isTransfer i = true := by
    cases u <;> simp [TransferUnit.commands, isTransfer]
  intro i hi
  obtain ⟨u, -, hu⟩ := List.mem_flatMap.mp hi
  exact hunit u i hu

/-- Settles O57: the units are transfers, and an edge is a Data write with Clock `HIGH`. -/
theorem unitsKeepDataStable : Obligations.UnitsKeepDataStable := by
  intro us s hready hcfg hscl
  obtain ⟨t, es, hrun, hcmds, hphase, htscl, hstable⟩ := commandRun_transfers (unitsCommands us)
    (isTransfer_of_mem_unitsCommands us) (s := withCommands (unitsCommands us) s) (ws := []) hready hcfg hscl
    (by simp [withCommands])
  have hstarts := masterStarts_le_dataWrites (driveOf s) es
  have hstops := masterStops_le_dataWrites (driveOf s) es
  change countEvents isDataWriteWithClockHigh (driveOf s) es = 0 at hstable
  refine ⟨t, hrun.run, htscl, hphase, hrun.cfg, hrun.ready.1, hcmds, es, hrun.trace, ?_, by omega, by omega,
    hrun.responses⟩
  rw [dataStable, hstable]
  rfl

/-- The bus between transactions: the block between commands and configured, both lines released, `PHASE` `IDLE`
(R34). -/
structure BusIdle (s : State) : Prop where
  ready : Ready s
  cfg : s.cfg = true
  drive : driveOf s = (.high, .high)
  phase : s.phase = .idle

/-! The events of these three commands are the same from every state. -/

theorem commandEvents_init (s : State) : commandEvents .init s = initEvents := rfl
theorem commandEvents_start (s : State) : commandEvents .start s = startEvents := rfl
theorem commandEvents_stop (s : State) : commandEvents .stop s = stopEvents := rfl

/-- `init`, presented to any block between commands, leaves the bus idle, with a STOP edge iff Data was held `LOW`
(R133). -/
theorem commandRun_init {s : State} {ws : List CmdWord} (hready : Ready s) (hcmds : s.inp.cmds = encode .init :: ws) :
    ∃ t es, CommandRun 1 s t es ∧ BusIdle t ∧ t.inp.cmds = ws ∧
      masterStops (driveOf s) es = if s.sdaDrv = .low then 1 else 0 := by
  have hone := commandRun_presented hready hcmds rfl
  refine ⟨_, _, hone, ⟨hone.ready, hone.cfg, rfl, rfl⟩, afterPresented_cmds .init hcmds, ?_⟩
  rw [commandEvents_init]
  exact masterStops_initEvents s.sclDrv s.sdaDrv

/-- A transaction from an idle bus leaves it idle, with one STOP edge: that of its `stop` (R147, R205). -/
theorem commandRun_transaction (us : List TransferUnit) {s : State} {ws : List CmdWord} (hidle : BusIdle s)
    (hcmds : s.inp.cmds = (transactionCommands us).map encode ++ ws) :
    ∃ t es, CommandRun (transactionCommands us).length s t es ∧ BusIdle t ∧ t.inp.cmds = ws ∧
      masterStops (driveOf s) es = 1 := by
  have hcmds' : s.inp.cmds = encode .start :: ((unitsCommands us).map encode ++ (encode .stop :: ws)) := by
    simp [hcmds, transactionCommands]
  have hstart := commandRun_presented hidle.ready hcmds' hidle.cfg
  obtain ⟨t, es, hunits, htcmds, -, -, hstable⟩ := commandRun_transfers (unitsCommands us)
    (isTransfer_of_mem_unitsCommands us) hstart.ready hstart.cfg rfl (afterPresented_cmds .start hcmds')
  have hstop := commandRun_presented hunits.ready htcmds hunits.cfg
  have hlen : (transactionCommands us).length = 1 + (unitsCommands us).length + 1 := by
    simp [transactionCommands]
    omega
  refine ⟨_, _, hlen ▸ (hstart.trans hunits).trans hstop, ⟨hstop.ready, hstop.cfg, rfl, rfl⟩,
    afterPresented_cmds .stop htcmds, ?_⟩
  have hunitsStops : masterStops (driveOf (afterPresented .start s)) es = 0 := by
    have := masterStops_le_dataWrites (driveOf (afterPresented .start s)) es
    omega
  rw [masterStops_append, masterStops_append, ← hstart.drive, hunitsStops, commandEvents_start, commandEvents_stop,
    masterStops_startEvents, masterStops_stopEvents, hidle.drive]
  rfl

/-- An item of a session from an idle bus leaves it idle, with one STOP edge for a transaction and none for `init`. -/
theorem commandRun_item (x : SessionItem) {s : State} {ws : List CmdWord} (hidle : BusIdle s)
    (hcmds : s.inp.cmds = x.commands.map encode ++ ws) :
    ∃ t es, CommandRun x.commands.length s t es ∧ BusIdle t ∧ t.inp.cmds = ws ∧
      masterStops (driveOf s) es = transactionCount [x] := by
  cases x with
  | transaction us => exact commandRun_transaction us hidle hcmds
  | reinit =>
    obtain ⟨t, es, hrun, htidle, htcmds, hstops⟩ := commandRun_init hidle.ready hcmds
    have hreleased : s.sdaDrv = .high := congrArg Prod.snd hidle.drive
    exact ⟨t, es, hrun, htidle, htcmds, by rw [hstops, hreleased]; rfl⟩

/-- Any number of items: what one leaves is what the next begins with. -/
theorem commandRun_items (xs : List SessionItem) {s : State} (hidle : BusIdle s)
    (hcmds : s.inp.cmds = (xs.flatMap SessionItem.commands).map encode) :
    ∃ t es, CommandRun (xs.flatMap SessionItem.commands).length s t es ∧ BusIdle t ∧ t.inp.cmds = [] ∧
      masterStops (driveOf s) es = transactionCount xs := by
  induction xs generalizing s with
  | nil => exact ⟨s, [], .refl hidle.ready hidle.cfg, hidle, hcmds, rfl⟩
  | cons x xs ih =>
    rw [List.flatMap_cons, List.map_append] at hcmds
    obtain ⟨t, es, hitem, htidle, htcmds, hstops⟩ := commandRun_item x hidle hcmds
    obtain ⟨u, fs, hitems, huidle, hucmds, hstops'⟩ := ih htidle htcmds
    have hcount : transactionCount (x :: xs) = transactionCount [x] + transactionCount xs := by
      cases x <;> simp [transactionCount, Nat.add_comm]
    refine ⟨u, es ++ fs, ?_, huidle, hucmds, ?_⟩
    · rw [List.flatMap_cons, List.length_append]
      exact hitem.trans hitems
    · rw [masterStops_append, ← hitem.drive, hstops, hstops', hcount]

/-- Settles O58: the first `init` makes the bus idle from any state, and every further item keeps it so. -/
theorem sessionsEndBusIdle : Obligations.SessionsEndBusIdle := by
  intro xs s hready
  obtain ⟨t, es, hinit, hidle, hcmds, hstops⟩ := commandRun_init (s := withCommands (sessionCommands xs) s)
    (ws := (xs.flatMap SessionItem.commands).map encode) hready rfl
  obtain ⟨u, fs, hitems, ⟨huready, hucfg, hudrive, huphase⟩, hucmds, hstops'⟩ := commandRun_items xs hidle hcmds
  have hrun := hinit.trans hitems
  have hlen : (sessionCommands xs).length = 1 + (xs.flatMap SessionItem.commands).length := by
    simp [sessionCommands, Nat.add_comm]
  rw [hlen]
  refine ⟨u, hrun.run, congrArg Prod.fst hudrive, congrArg Prod.snd hudrive, huphase, hucfg, huready.1, hucmds,
    es ++ fs, hrun.trace, hrun.responses, ?_⟩
  change masterStops (driveOf s) es = if s.sdaDrv = .low then 1 else 0 at hstops
  have hdrive : driveEnd (driveOf s) es = driveOf t := hinit.drive.symm
  rw [masterStops_append, hdrive, hstops, hstops', Nat.add_comm]

end Sys2Proof.Machine
end

section
/-! The grammar of sessions and the caller's state machine (spec/45_transactions.md R200 to R202). -/

namespace Sys2Proof.Machine

/-- The rest of a transaction between two units, and the items after it. -/
def RestOfTransaction (is : List Instr) : Prop :=
  ∃ (us : List TransferUnit) (xs : List SessionItem), is = unitsCommands us ++ .stop :: xs.flatMap SessionItem.commands

/-- What the grammar lets follow from where the caller stands, to the end of the session; inside a unit, with the
command that began it. -/
def MayFollow (c : CallerState) (is : List Instr) : Prop :=
  match c with
  | .fresh => ∃ xs, is = sessionCommands xs
  | .idle => ∃ xs : List SessionItem, is = xs.flatMap SessionItem.commands
  | .captured => RestOfTransaction is
  | .sent => ∀ v, RestOfTransaction (.sendByte v :: is)
  | .received => RestOfTransaction (.receiveByte :: is)

/-- A unit before the rest of a transaction is a rest of a transaction. -/
theorem restOfTransaction_unit (u : TransferUnit) {is : List Instr} (h : RestOfTransaction is) :
    RestOfTransaction (u.commands ++ is) := by
  obtain ⟨us, xs, rfl⟩ := h
  exact ⟨u :: us, xs, by simp [unitsCommands]⟩

/-- Each move of the caller's state machine is one of the grammar. -/
theorem mayFollow_cons {c c' : CallerState} {i : Instr} {is : List Instr} (h : callerNext c i = some c')
    (hrest : MayFollow c' is) : MayFollow c (i :: is) := by
  unfold callerNext at h
  split at h <;> cases h
  · obtain ⟨xs, rfl⟩ := hrest
    exact ⟨xs, rfl⟩
  · obtain ⟨xs, rfl⟩ := hrest
    exact ⟨.reinit :: xs, rfl⟩
  · obtain ⟨us, xs, rfl⟩ := hrest
    exact ⟨.transaction us :: xs, by simp [SessionItem.commands, transactionCommands]⟩
  · obtain ⟨xs, rfl⟩ := hrest
    exact ⟨[], xs, rfl⟩
  · exact hrest _
  · exact hrest
  · exact fun v => restOfTransaction_unit (.sendReceiveAck v) hrest
  · exact fun v => restOfTransaction_unit (.sendWaitAck v) hrest
  · exact restOfTransaction_unit (.receiveSendAck _) hrest
  · exact restOfTransaction_unit .receiveWaitAck hrest

/-- What the caller's state machine accepts is what the grammar allows. -/
theorem mayFollow_of_callerRun {c : CallerState} {is : List Instr} (h : callerRun c is = some .idle) :
    MayFollow c is := by
  induction is generalizing c with
  | nil =>
    cases h
    exact ⟨[], rfl⟩
  | cons i is ih =>
    rw [callerRun] at h
    split at h
    · exact mayFollow_cons ‹_› (ih h)
    · cases h

/-- A unit takes the caller back to where it stood. -/
theorem callerRun_unitsCommands (us : List TransferUnit) (is : List Instr) :
    callerRun .captured (unitsCommands us ++ is) = callerRun .captured is := by
  induction us with
  | nil => rfl
  | cons u us ih => cases u <;> exact ih

/-- So does an item of a session. -/
theorem callerRun_items (xs : List SessionItem) : callerRun .idle (xs.flatMap SessionItem.commands) = some .idle := by
  induction xs with
  | nil => rfl
  | cons x xs ih =>
    cases x with
    | transaction us =>
      have hunits := callerRun_unitsCommands us (.stop :: xs.flatMap SessionItem.commands)
      simpa [SessionItem.commands, transactionCommands, callerRun, callerNext, ih] using hunits
    | reinit => exact ih

/-- Settles O56: the two directions are `mayFollow_of_callerRun` and `callerRun_items`. -/
theorem grammarRecognised : Obligations.GrammarRecognised := by
  intro is
  rw [wellFormedSession, decide_eq_true_iff]
  constructor
  · exact mayFollow_of_callerRun
  · rintro ⟨xs, rfl⟩
    exact callerRun_items xs

end Sys2Proof.Machine
end
